-- ==== Sys2Proof/Word.lean ====
section
/-! DEFINITION. The word types of the JDC and two small fixed-size containers. -/

namespace Sys2Proof

/-- A byte of stream memory, a symbol or a sample (spec/20_memory.md R60). -/
abbrev Byte := BitVec 8
/-- A 16-bit value: a marker, a quantizer entry, an image dimension. -/
abbrev Half := BitVec 16
/-- A register of the register window (spec/10_state.md R21). -/
abbrev Word := BitVec 32
/-- The spec's `int32`: two's complement, wrapping (spec/00_scope.md R10). -/
abbrev Coef := BitVec 32

/-- Four like things with the spec's indices 0 to 3 (COMP_CFG0..3, SCAN_COMP0..3). -/
structure Four (α : Type) where
  x0 : α
  x1 : α
  x2 : α
  x3 : α
  deriving DecidableEq, Repr

/-- Eight like things: a row or a column of an 8×8 block. -/
structure Eight (α : Type) where
  p0 : α
  p1 : α
  p2 : α
  p3 : α
  p4 : α
  p5 : α
  p6 : α
  p7 : α
  deriving DecidableEq, Repr, Inhabited

end Sys2Proof
end

