-- ==== Sys2Proof/Syntax.lean ====
section
/-! DEFINITION. The instruction set: the ten formats of spec/opcode_table.json and one constructor per row. -/

namespace Sys2Proof

/-- The formats an encoded word can have (the table's "format"; spec/30_encoding.md sections 1 to 4).
Which format applies is never read from the word itself: it is fixed by the place where the core
meets the word (CMD, the first byte of a table group, a Huffman-decoded symbol, and so on). -/
inductive Format where
  /-- a command word, R82 -/
  | cmd
  /-- the PqTq byte of a DQT group, R88 -/
  | dqtPqTq
  /-- the TcTh byte of a DHT group, R89 -/
  | dhtTcTh
  /-- the 3-bit selector (PROGRESSIVE, SS = 0, AH = 0), R97 -/
  | scanMode
  /-- a Huffman-decoded DC symbol, R91 -/
  | dcSymbol
  /-- a Huffman-decoded AC symbol, R92 and R93 -/
  | acSymbol
  /-- a DC refinement bit, R94 -/
  | dcSuccBit
  /-- an AC correction bit, R93 -/
  | acSuccBit
  /-- a 16-bit big-endian marker value, R86 and R143 -/
  | marker
  /-- the 7-bit selector (NCOMP, source colour space, OUT_CS), R99 -/
  | colorDispatch
  deriving DecidableEq, Repr

/-- One constructor per row of spec/opcode_table.json. Operands are the fields the row leaves open. -/
inductive Instr where
  -- CMD (30 R83, R84)
  | nop
  | clear
  | loadDqt
  | loadDht
  | setFrame
  | decodeScan
  | buildComponents
  | colorConvert
  /-- OPCODE 0x08 to 0x0F with MBZ = 0 -/
  | illegalCmdLow (opcode : Byte)
  /-- every other command word: OPCODE 0x10 to 0xFF, or MBZ ≠ 0 -/
  | illegalCmdOther (w : Word)
  -- DQT_PQTQ (30 R88, R101)
  | dqtGroup8 (tq : BitVec 4)
  | dqtGroup16 (tq : BitVec 4)
  | dqtReserved2 (pq tq : BitVec 4)
  | dqtReserved4 (pq tq : BitVec 4)
  | dqtReserved8 (pq tq : BitVec 4)
  -- DHT_TCTH (30 R89, R101)
  | dhtGroupDc (th : BitVec 2)
  | dhtGroupAc (th : BitVec 2)
  | dhtReserved (tc th : BitVec 4)
  -- SCAN_MODE_SELECTOR (30 R97); BASELINE leaves its two low bits open
  | baseline (ssIs0 ahIs0 : Bool)
  | dcFirst
  | dcSucc
  | acFirst
  | acSucc
  -- DC_SYMBOL (30 R91)
  | dcDiff (t : BitVec 4)
  | dcReserved16 (t : Byte)
  | dcReserved32 (t : Byte)
  | dcReserved64 (t : Byte)
  | dcReserved128 (t : Byte)
  -- AC_SYMBOL (30 R92, R93)
  | acZrl
  | acEob0 (r : BitVec 4)
  | acEob8 (r : BitVec 4)
  | acEob12 (r : BitVec 4)
  | acEob14
  | acRunSize1 (r : BitVec 4)
  | acRunSize2 (r sz : BitVec 4)
  | acRunSize4 (r sz : BitVec 4)
  | acRunSize8 (r sz : BitVec 4)
  -- raw bits (30 R94, R93)
  | dcSuccBit (b : Bool)
  | acSuccCorrectionBit (b : Bool)
  -- MARKER (30 R86; 41 R143)
  | soi
  | eoi
  | rst (n : BitVec 3)
  | sof0
  | sof2
  | dht
  | dqt
  | sos
  | dri
  | app (n : BitVec 4)
  | com
  | stuffedFF
  -- COLOR_DISPATCH (30 R99)
  | color1cYCbCrOutYCbCr
  | color1cYCbCrOutRgb
  | color1cCmykOutYCbCr
  | color1cCmykOutRgb
  | color1cYcckOutYCbCr
  | color1cYcckOutRgb
  | color2cYCbCrOutYCbCr
  | color2cYCbCrOutRgb
  | color2cCmykOutYCbCr
  | color2cCmykOutRgb
  | color2cYcckOutYCbCr
  | color2cYcckOutRgb
  | color3cYCbCrOutYCbCr
  | color3cYCbCrOutRgb
  | color4cCmykOutYCbCr
  | color4cCmykOutRgb
  | color4cYcckOutYCbCr
  | color4cYcckOutRgb
  | colorModeOther (ncomp : BitVec 3) (src out : BitVec 2)
  deriving DecidableEq, Repr

end Sys2Proof
end

