-- ==== Sys2Proof/WellFormed.lean ====
section
/-! DEFINITION. Which terms of Instr are instructions: each operand in the range its row of the opcode table leaves it. -/

namespace Sys2Proof

/-- The (NCOMP, source, OUT_CS) combinations that spec/30_encoding.md R99 lists with a conversion. -/
def colorListed (ncomp : BitVec 3) (src out : BitVec 2) : Bool :=
  (out ≤ 1#2) &&
    ((ncomp == 1#3 && src != 1#2) || (ncomp == 2#3 && src != 1#2) ||
      (ncomp == 3#3 && src == 0#2) || (ncomp == 4#3 && 2#2 ≤ src))

/-- Well-formedness, constructor by constructor (spec/opcode_table.json; spec/30_encoding.md R84, R91,
R92, R97, R99, R101). A row's operands never reach the words of an earlier row. -/
def Instr.wf : Instr → Bool
  | .nop => true
  | .clear => true
  | .loadDqt => true
  | .loadDht => true
  | .setFrame => true
  | .decodeScan => true
  | .buildComponents => true
  | .colorConvert => true
  | .illegalCmdLow op => (8#8 ≤ op) && (op < 16#8)
  | .illegalCmdOther w => 16#32 ≤ w
  | .dqtGroup8 _ => true
  | .dqtGroup16 _ => true
  | .dqtReserved2 pq _ => (2#4 ≤ pq) && (pq < 4#4)
  | .dqtReserved4 pq _ => (4#4 ≤ pq) && (pq < 8#4)
  | .dqtReserved8 pq _ => 8#4 ≤ pq
  | .dhtGroupDc _ => true
  | .dhtGroupAc _ => true
  | .dhtReserved tc th => (1#4 < tc) || (3#4 < th)
  | .baseline _ _ => true
  | .dcFirst => true
  | .dcSucc => true
  | .acFirst => true
  | .acSucc => true
  | .dcDiff _ => true
  | .dcReserved16 t => (16#8 ≤ t) && (t < 32#8)
  | .dcReserved32 t => (32#8 ≤ t) && (t < 64#8)
  | .dcReserved64 t => (64#8 ≤ t) && (t < 128#8)
  | .dcReserved128 t => 128#8 ≤ t
  | .acZrl => true
  | .acEob0 r => r < 8#4
  | .acEob8 r => (8#4 ≤ r) && (r < 12#4)
  | .acEob12 r => (12#4 ≤ r) && (r < 14#4)
  | .acEob14 => true
  | .acRunSize1 _ => true
  | .acRunSize2 _ sz => (2#4 ≤ sz) && (sz < 4#4)
  | .acRunSize4 _ sz => (4#4 ≤ sz) && (sz < 8#4)
  | .acRunSize8 _ sz => 8#4 ≤ sz
  | .dcSuccBit _ => true
  | .acSuccCorrectionBit _ => true
  | .soi => true
  | .eoi => true
  | .rst _ => true
  | .sof0 => true
  | .sof2 => true
  | .dht => true
  | .dqt => true
  | .sos => true
  | .dri => true
  | .app _ => true
  | .com => true
  | .stuffedFF => true
  | .color1cYCbCrOutYCbCr => true
  | .color1cYCbCrOutRgb => true
  | .color1cCmykOutYCbCr => true
  | .color1cCmykOutRgb => true
  | .color1cYcckOutYCbCr => true
  | .color1cYcckOutRgb => true
  | .color2cYCbCrOutYCbCr => true
  | .color2cYCbCrOutRgb => true
  | .color2cCmykOutYCbCr => true
  | .color2cCmykOutRgb => true
  | .color2cYcckOutYCbCr => true
  | .color2cYcckOutRgb => true
  | .color3cYCbCrOutYCbCr => true
  | .color3cYCbCrOutRgb => true
  | .color4cCmykOutYCbCr => true
  | .color4cCmykOutRgb => true
  | .color4cYcckOutYCbCr => true
  | .color4cYcckOutRgb => true
  | .colorModeOther n src out => !colorListed n src out

end Sys2Proof
end

