-- ==== Sys2Proof/Decode.lean ====
section
/-! DEFINITION. The decoder, one total function per format, and the encoder written from the same tables of spec/30_encoding.md. -/

namespace Sys2Proof

/-- `v[lo + n - 1 : lo]`, the n-bit field of `v` that starts at bit `lo` (spec/00_scope.md R9). -/
def bitsAt {w : Nat} (v : BitVec w) (lo n : Nat) : BitVec n := v.extractLsb' lo n

/-- The same field as a natural number. -/
def fieldNat {w : Nat} (v : BitVec w) (lo n : Nat) : Nat := (bitsAt v lo n).toNat

/-- The number of bits of each format. -/
def Format.width : Format → Nat
  | .cmd => 32
  | .dqtPqTq => 8
  | .dhtTcTh => 8
  | .scanMode => 3
  | .dcSymbol => 8
  | .acSymbol => 8
  | .dcSuccBit => 1
  | .acSuccBit => 1
  | .marker => 16
  | .colorDispatch => 7

/-- Why a word is no instruction. -/
inductive DecodeError where
  /-- bits stand above the format's width -/
  | bitsAboveWidth (f : Format)
  /-- a 16-bit value that spec/30_encoding.md R86 does not list, and that is not FF 00 -/
  | unknownMarker (m : Half)
  deriving DecidableEq, Repr

/-- 30 R82 to R84: every 32-bit word is a command or an illegal command. -/
def decodeCmd (w : Word) : Instr :=
  if w = 0#32 then .nop
  else if w = 1#32 then .clear
  else if w = 2#32 then .loadDqt
  else if w = 3#32 then .loadDht
  else if w = 4#32 then .setFrame
  else if w = 5#32 then .decodeScan
  else if w = 6#32 then .buildComponents
  else if w = 7#32 then .colorConvert
  else if w &&& 0xFFFFFFF8#32 = 8#32 then .illegalCmdLow (bitsAt w 0 8)
  else .illegalCmdOther w

/-- 30 R88 and R101: Pq is the high nibble, Tq the low one. -/
def decodeDqt (b : Byte) : Instr :=
  if b &&& 0xF0#8 = 0x00#8 then .dqtGroup8 (bitsAt b 0 4)
  else if b &&& 0xF0#8 = 0x10#8 then .dqtGroup16 (bitsAt b 0 4)
  else if b &&& 0xE0#8 = 0x20#8 then .dqtReserved2 (bitsAt b 4 4) (bitsAt b 0 4)
  else if b &&& 0xC0#8 = 0x40#8 then .dqtReserved4 (bitsAt b 4 4) (bitsAt b 0 4)
  else .dqtReserved8 (bitsAt b 4 4) (bitsAt b 0 4)

/-- 30 R89 and R101: Tc is the high nibble, Th the low one. -/
def decodeDht (b : Byte) : Instr :=
  if b &&& 0xFC#8 = 0x00#8 then .dhtGroupDc (bitsAt b 0 2)
  else if b &&& 0xFC#8 = 0x10#8 then .dhtGroupAc (bitsAt b 0 2)
  else .dhtReserved (bitsAt b 4 4) (bitsAt b 0 4)

/-- 30 R97: bit 2 PROGRESSIVE, bit 1 SS = 0, bit 0 AH = 0. -/
def decodeScanMode (b : BitVec 3) : Instr :=
  if b &&& 4#3 = 0#3 then .baseline (b.getLsbD 1) (b.getLsbD 0)
  else if b = 7#3 then .dcFirst
  else if b = 6#3 then .dcSucc
  else if b = 5#3 then .acFirst
  else .acSucc

/-- 30 R91: a category 0 to 15, or a reserved symbol. -/
def decodeDcSymbol (t : Byte) : Instr :=
  if t &&& 0xF0#8 = 0x00#8 then .dcDiff (bitsAt t 0 4)
  else if t &&& 0xF0#8 = 0x10#8 then .dcReserved16 t
  else if t &&& 0xE0#8 = 0x20#8 then .dcReserved32 t
  else if t &&& 0xC0#8 = 0x40#8 then .dcReserved64 t
  else .dcReserved128 t

/-- 30 R92: r is the high nibble, s the low one. -/
def decodeAcSymbol (rs : Byte) : Instr :=
  if rs = 0xF0#8 then .acZrl
  else if rs &&& 0x8F#8 = 0x00#8 then .acEob0 (bitsAt rs 4 4)
  else if rs &&& 0xCF#8 = 0x80#8 then .acEob8 (bitsAt rs 4 4)
  else if rs &&& 0xEF#8 = 0xC0#8 then .acEob12 (bitsAt rs 4 4)
  else if rs = 0xE0#8 then .acEob14
  else if rs &&& 0x0F#8 = 0x01#8 then .acRunSize1 (bitsAt rs 4 4)
  else if rs &&& 0x0E#8 = 0x02#8 then .acRunSize2 (bitsAt rs 4 4) (bitsAt rs 0 4)
  else if rs &&& 0x0C#8 = 0x04#8 then .acRunSize4 (bitsAt rs 4 4) (bitsAt rs 0 4)
  else .acRunSize8 (bitsAt rs 4 4) (bitsAt rs 0 4)

/-- 30 R86 and 41 R143: the recognised 16-bit values. -/
def decodeMarker (m : Half) : Option Instr :=
  if m = 0xFFD8#16 then some .soi
  else if m = 0xFFD9#16 then some .eoi
  else if m &&& 0xFFF8#16 = 0xFFD0#16 then some (.rst (bitsAt m 0 3))
  else if m = 0xFFC0#16 then some .sof0
  else if m = 0xFFC2#16 then some .sof2
  else if m = 0xFFC4#16 then some .dht
  else if m = 0xFFDB#16 then some .dqt
  else if m = 0xFFDA#16 then some .sos
  else if m = 0xFFDD#16 then some .dri
  else if m &&& 0xFFF0#16 = 0xFFE0#16 then some (.app (bitsAt m 0 4))
  else if m = 0xFFFE#16 then some .com
  else if m = 0xFF00#16 then some .stuffedFF
  else none

/-- 30 R99: bits 6:4 NCOMP, bits 3:2 the source colour space, bits 1:0 OUT_CS. -/
def decodeColor (b : BitVec 7) : Instr :=
  if b = 0x10#7 then .color1cYCbCrOutYCbCr
  else if b = 0x11#7 then .color1cYCbCrOutRgb
  else if b = 0x18#7 then .color1cCmykOutYCbCr
  else if b = 0x19#7 then .color1cCmykOutRgb
  else if b = 0x1C#7 then .color1cYcckOutYCbCr
  else if b = 0x1D#7 then .color1cYcckOutRgb
  else if b = 0x20#7 then .color2cYCbCrOutYCbCr
  else if b = 0x21#7 then .color2cYCbCrOutRgb
  else if b = 0x28#7 then .color2cCmykOutYCbCr
  else if b = 0x29#7 then .color2cCmykOutRgb
  else if b = 0x2C#7 then .color2cYcckOutYCbCr
  else if b = 0x2D#7 then .color2cYcckOutRgb
  else if b = 0x30#7 then .color3cYCbCrOutYCbCr
  else if b = 0x31#7 then .color3cYCbCrOutRgb
  else if b = 0x48#7 then .color4cCmykOutYCbCr
  else if b = 0x49#7 then .color4cCmykOutRgb
  else if b = 0x4C#7 then .color4cYcckOutYCbCr
  else if b = 0x4D#7 then .color4cYcckOutRgb
  else .colorModeOther (bitsAt b 4 3) (bitsAt b 2 2) (bitsAt b 0 2)

/-- The decoder: total on every word of every format, rejecting by name. -/
def decode (f : Format) (w : Word) : Except DecodeError Instr :=
  if w >>> f.width ≠ 0#32 then .error (.bitsAboveWidth f)
  else match f with
    | .cmd => .ok (decodeCmd w)
    | .dqtPqTq => .ok (decodeDqt (w.setWidth 8))
    | .dhtTcTh => .ok (decodeDht (w.setWidth 8))
    | .scanMode => .ok (decodeScanMode (w.setWidth 3))
    | .dcSymbol => .ok (decodeDcSymbol (w.setWidth 8))
    | .acSymbol => .ok (decodeAcSymbol (w.setWidth 8))
    | .dcSuccBit => .ok (.dcSuccBit (w.getLsbD 0))
    | .acSuccBit => .ok (.acSuccCorrectionBit (w.getLsbD 0))
    | .marker =>
      match decodeMarker (w.setWidth 16) with
      | some i => .ok i
      | none => .error (.unknownMarker (w.setWidth 16))
    | .colorDispatch => .ok (decodeColor (w.setWidth 7))

/-- A two-byte stream value is big-endian (spec/20_memory.md R67). -/
def bigEndian (hi lo : Byte) : Half := hi ++ lo

/-- A nibble pair as one byte. -/
def nibbles (hi lo : BitVec 4) : Byte := hi ++ lo

/-- The encoder (spec/30_encoding.md R83, R84, R86, R88, R89, R91 to R94, R97, R99): the format an
instruction has and its word, for a well-formed instruction. -/
def encode : Instr → Format × Word
  | .nop => (.cmd, 0#32)
  | .clear => (.cmd, 1#32)
  | .loadDqt => (.cmd, 2#32)
  | .loadDht => (.cmd, 3#32)
  | .setFrame => (.cmd, 4#32)
  | .decodeScan => (.cmd, 5#32)
  | .buildComponents => (.cmd, 6#32)
  | .colorConvert => (.cmd, 7#32)
  | .illegalCmdLow op => (.cmd, op.setWidth 32)
  | .illegalCmdOther w => (.cmd, w)
  | .dqtGroup8 tq => (.dqtPqTq, (nibbles 0#4 tq).setWidth 32)
  | .dqtGroup16 tq => (.dqtPqTq, (nibbles 1#4 tq).setWidth 32)
  | .dqtReserved2 pq tq => (.dqtPqTq, (nibbles pq tq).setWidth 32)
  | .dqtReserved4 pq tq => (.dqtPqTq, (nibbles pq tq).setWidth 32)
  | .dqtReserved8 pq tq => (.dqtPqTq, (nibbles pq tq).setWidth 32)
  | .dhtGroupDc th => (.dhtTcTh, (nibbles 0#4 (th.setWidth 4)).setWidth 32)
  | .dhtGroupAc th => (.dhtTcTh, (nibbles 1#4 (th.setWidth 4)).setWidth 32)
  | .dhtReserved tc th => (.dhtTcTh, (nibbles tc th).setWidth 32)
  | .baseline ss0 ah0 => (.scanMode, (BitVec.ofBool ss0 ++ BitVec.ofBool ah0).setWidth 32)
  | .dcFirst => (.scanMode, 7#32)
  | .dcSucc => (.scanMode, 6#32)
  | .acFirst => (.scanMode, 5#32)
  | .acSucc => (.scanMode, 4#32)
  | .dcDiff t => (.dcSymbol, (nibbles 0#4 t).setWidth 32)
  | .dcReserved16 t => (.dcSymbol, t.setWidth 32)
  | .dcReserved32 t => (.dcSymbol, t.setWidth 32)
  | .dcReserved64 t => (.dcSymbol, t.setWidth 32)
  | .dcReserved128 t => (.dcSymbol, t.setWidth 32)
  | .acZrl => (.acSymbol, 0xF0#32)
  | .acEob0 r => (.acSymbol, (nibbles r 0#4).setWidth 32)
  | .acEob8 r => (.acSymbol, (nibbles r 0#4).setWidth 32)
  | .acEob12 r => (.acSymbol, (nibbles r 0#4).setWidth 32)
  | .acEob14 => (.acSymbol, 0xE0#32)
  | .acRunSize1 r => (.acSymbol, (nibbles r 1#4).setWidth 32)
  | .acRunSize2 r sz => (.acSymbol, (nibbles r sz).setWidth 32)
  | .acRunSize4 r sz => (.acSymbol, (nibbles r sz).setWidth 32)
  | .acRunSize8 r sz => (.acSymbol, (nibbles r sz).setWidth 32)
  | .dcSuccBit b => (.dcSuccBit, (BitVec.ofBool b).setWidth 32)
  | .acSuccCorrectionBit b => (.acSuccBit, (BitVec.ofBool b).setWidth 32)
  | .soi => (.marker, 0xFFD8#32)
  | .eoi => (.marker, 0xFFD9#32)
  | .rst n => (.marker, 0xFFD0#32 ||| n.setWidth 32)
  | .sof0 => (.marker, 0xFFC0#32)
  | .sof2 => (.marker, 0xFFC2#32)
  | .dht => (.marker, 0xFFC4#32)
  | .dqt => (.marker, 0xFFDB#32)
  | .sos => (.marker, 0xFFDA#32)
  | .dri => (.marker, 0xFFDD#32)
  | .app n => (.marker, 0xFFE0#32 ||| n.setWidth 32)
  | .com => (.marker, 0xFFFE#32)
  | .stuffedFF => (.marker, 0xFF00#32)
  | .color1cYCbCrOutYCbCr => (.colorDispatch, 0x10#32)
  | .color1cYCbCrOutRgb => (.colorDispatch, 0x11#32)
  | .color1cCmykOutYCbCr => (.colorDispatch, 0x18#32)
  | .color1cCmykOutRgb => (.colorDispatch, 0x19#32)
  | .color1cYcckOutYCbCr => (.colorDispatch, 0x1C#32)
  | .color1cYcckOutRgb => (.colorDispatch, 0x1D#32)
  | .color2cYCbCrOutYCbCr => (.colorDispatch, 0x20#32)
  | .color2cYCbCrOutRgb => (.colorDispatch, 0x21#32)
  | .color2cCmykOutYCbCr => (.colorDispatch, 0x28#32)
  | .color2cCmykOutRgb => (.colorDispatch, 0x29#32)
  | .color2cYcckOutYCbCr => (.colorDispatch, 0x2C#32)
  | .color2cYcckOutRgb => (.colorDispatch, 0x2D#32)
  | .color3cYCbCrOutYCbCr => (.colorDispatch, 0x30#32)
  | .color3cYCbCrOutRgb => (.colorDispatch, 0x31#32)
  | .color4cCmykOutYCbCr => (.colorDispatch, 0x48#32)
  | .color4cCmykOutRgb => (.colorDispatch, 0x49#32)
  | .color4cYcckOutYCbCr => (.colorDispatch, 0x4C#32)
  | .color4cYcckOutRgb => (.colorDispatch, 0x4D#32)
  | .colorModeOther n src out => (.colorDispatch, (n ++ src ++ out).setWidth 32)

/-- The marker instruction that two stream bytes make, the first at the lower address. -/
def decodeMarkerBytes (hi lo : Byte) : Option Instr := decodeMarker (bigEndian hi lo)

/-- A row of a byte format: its match value, its mask (a selector of fewer than 8 bits has its missing
high bits fixed at 0) and the format. -/
structure ByteRow where
  value : Nat
  mask : Nat
  fmt : Format
  deriving DecidableEq, Repr

/-- The byte formats' rows in the table's order; the two raw-bit rows fix no bit and are left out. -/
def byteRows : List ByteRow :=
  [⟨0x00, 0xF0, .dqtPqTq⟩, ⟨0x10, 0xF0, .dqtPqTq⟩, ⟨0x20, 0xE0, .dqtPqTq⟩, ⟨0x40, 0xC0, .dqtPqTq⟩,
   ⟨0x80, 0x80, .dqtPqTq⟩, ⟨0x00, 0xFC, .dhtTcTh⟩, ⟨0x10, 0xFC, .dhtTcTh⟩]
  ++ [⟨0, 0xFC, .scanMode⟩, ⟨7, 0xFF, .scanMode⟩, ⟨6, 0xFF, .scanMode⟩, ⟨5, 0xFF, .scanMode⟩, ⟨4, 0xFF, .scanMode⟩]
  ++ [⟨0x00, 0xF0, .dcSymbol⟩, ⟨0x10, 0xF0, .dcSymbol⟩, ⟨0x20, 0xE0, .dcSymbol⟩, ⟨0x40, 0xC0, .dcSymbol⟩,
      ⟨0x80, 0x80, .dcSymbol⟩]
  ++ [⟨0xF0, 0xFF, .acSymbol⟩, ⟨0x00, 0x8F, .acSymbol⟩, ⟨0x80, 0xCF, .acSymbol⟩, ⟨0xC0, 0xEF, .acSymbol⟩,
      ⟨0xE0, 0xFF, .acSymbol⟩, ⟨0x01, 0x0F, .acSymbol⟩, ⟨0x02, 0x0E, .acSymbol⟩, ⟨0x04, 0x0C, .acSymbol⟩,
      ⟨0x08, 0x08, .acSymbol⟩]
  ++ [⟨0x10, 0xFF, .colorDispatch⟩, ⟨0x11, 0xFF, .colorDispatch⟩, ⟨0x18, 0xFF, .colorDispatch⟩,
      ⟨0x19, 0xFF, .colorDispatch⟩, ⟨0x1C, 0xFF, .colorDispatch⟩, ⟨0x1D, 0xFF, .colorDispatch⟩,
      ⟨0x20, 0xFF, .colorDispatch⟩, ⟨0x21, 0xFF, .colorDispatch⟩, ⟨0x28, 0xFF, .colorDispatch⟩]
  ++ [⟨0x29, 0xFF, .colorDispatch⟩, ⟨0x2C, 0xFF, .colorDispatch⟩, ⟨0x2D, 0xFF, .colorDispatch⟩,
      ⟨0x30, 0xFF, .colorDispatch⟩, ⟨0x31, 0xFF, .colorDispatch⟩, ⟨0x48, 0xFF, .colorDispatch⟩,
      ⟨0x49, 0xFF, .colorDispatch⟩, ⟨0x4C, 0xFF, .colorDispatch⟩, ⟨0x4D, 0xFF, .colorDispatch⟩]

/-- How many of the low `n` bits of `m` are 1. -/
def countOnes : Nat → Nat → Nat
  | 0, _ => 0
  | n + 1, m => m % 2 + countOnes n (m / 2)

/-- The row with the most fixed bits, the first in the table on a tie. -/
def mostFixed : List ByteRow → Option ByteRow
  | [] => none
  | row :: rest =>
    match mostFixed rest with
    | none => some row
    | some other => if countOnes 8 row.mask < countOnes 8 other.mask then some other else some row

/-- The format in which a byte WITHOUT ITS CONTEXT is read. DESIGN CHOICE (log 3): the spec fixes the
format by the place where the core meets the byte, so a bare byte has no format of its own. A byte
that is some row's match value is read in that row's format; any other byte in the format of a row
whose mask and match admit it; among several rows the one with the most fixed bits, then the first. -/
def byteFormat (w : Nat) : Format :=
  match mostFixed (byteRows.filter fun row => row.value == w) with
  | some row => row.fmt
  | none =>
    match mostFixed (byteRows.filter fun row => w &&& row.mask == row.value) with
    | some row => row.fmt
    | none => .acSymbol

/-- The format of a table word of `nbits` bits (log 3). -/
def tableFormat (nbits w : Nat) : Option Format :=
  if nbits ≤ 8 then some (byteFormat w)
  else if nbits ≤ 16 then some .marker
  else if nbits ≤ 32 then some .cmd
  else none

/-- The instruction the decoder reads from a table word: 32 bits are a command word, 16 bits the
marker whose two bytes stand big-endian in the stream, 8 bits a byte in `byteFormat`'s reading. -/
def decodeTableWord (nbits w : Nat) : Option Instr :=
  match tableFormat nbits w with
  | none => none
  | some .marker => decodeMarkerBytes (BitVec.ofNat 8 (w / 256)) (BitVec.ofNat 8 w)
  | some f => (decode f (BitVec.ofNat 32 w)).toOption

end Sys2Proof
end

