-- ==== Sys2Proof/Config.lean ====
section
/-! DEFINITION. What an implementation fixes: the named parameters of spec/00_scope.md R8 and the constants of R7. -/

namespace Sys2Proof

/-- AC_REFINE_MODE (spec/00_scope.md R8, spec/44_scan_decoder.md R232): how a correction bit is applied. -/
inductive RefineMode where
  /-- the source's literal "adds one refinement bit", the spec's default -/
  | add
  /-- the ITU-T T.81 reading -/
  | magnitude
  deriving DecidableEq, Repr

/-- IDCT8x8 (spec/00_scope.md R8, spec/92_eei_decisions.md D9): the inverse transform an implementation has. -/
inductive IdctKind where
  /-- the dataflow of spec/45_dequant_idct.md R265 to R269, the spec's default -/
  | standard
  /-- another one: the function `Config.otherIdct i`, of which nothing is known (log 7) -/
  | other (i : Nat)
  deriving DecidableEq, Repr

/-- COLOR_ARITH (spec/00_scope.md R8, spec/92_eei_decisions.md D32, D33): the arithmetic of colour
conversion and sample indexing. -/
inductive ColorArith where
  /-- exact rational arithmetic (spec/46_color.md R295, R296), the spec's default -/
  | exact
  /-- another one: `Config.otherYccToRgb i` and `Config.otherIndex i`, of which nothing is known (log 7) -/
  | other (i : Nat)
  deriving DecidableEq, Repr

/-- The inverse transform number `i`, from a block and its quantization table, both in natural order, to the
64 samples; uninterpreted (log 7). -/
opaque Config.otherIdct (i : Nat) (blk : Eight (Eight Coef)) (q : Vector Half 64) : Eight (Eight Byte)

/-- YCbCr to RGB (spec/46_color.md R300) in the colour arithmetic number `i`; uninterpreted (log 7). -/
opaque Config.otherYccToRgb (i : Nat) (luma cb cr : Byte) : Byte × Byte × Byte

/-- A sample index (spec/46_color.md R295) in the colour arithmetic number `i`, from the output coordinate, the
frame's size, the component's factor, the output's size and the largest factor; uninterpreted (log 7). -/
opaque Config.otherIndex (i coord size factor outSize maxFactor : Nat) : Nat

/-- The five parameters a model takes as arguments (spec/00_scope.md R8). They stand in State as plain data,
no step changes them, and a statement over every state holds for every value of them (logs 5, 6, 7). -/
structure Params where
  /-- MAX_BLOCKS: OPEN in the spec, an integer ≥ 1 (spec/92_eei_decisions.md D19) -/
  maxBlocks : ℕ+
  /-- HT_MAX_SYMBOLS (spec/42_huffman.md R164, spec/92_eei_decisions.md D14) -/
  htMaxSymbols : Nat
  refineMode : RefineMode
  idct : IdctKind
  colorArith : ColorArith
  deriving DecidableEq, Repr

/-- The parameters of State.reset. MAX_BLOCKS is a DESIGN CHOICE (log 5): 2^32, which no frame can
exceed (four components of at most 32768 × 32768 blocks), so that no frame is refused for its size.
The other four are the spec's defaults (logs 6, 7). -/
def Config.params : Params :=
  { maxBlocks := ⟨4294967296, by decide⟩, htMaxSymbols := 256, refineMode := .add
    idct := .standard, colorArith := .exact }

/-- The constant of the ID register, ASCII `JDC1` (spec/10_state.md R22). -/
def Config.idValue : Word := 0x4A444331#32

/-- What a byte of stream memory that nothing has written reads as. DESIGN CHOICE (log 8), unsafe. -/
def Config.unwrittenByte : Byte := 0#8

end Sys2Proof
end

