-- ==== Sys2Proof/Machine/State.lean ====
section
/-! DEFINITION. The machine's state as plain data, the reasons a step can stop, and the state after reset. -/

namespace Sys2Proof.Machine

/-- STATUS.ERR_CODE (spec/60_exceptions.md R321): codes 14 to 255 never occur. -/
inductive ErrCode where
  | none
  | illegalCmd
  | sequence
  | streamEos
  | qtPrecision
  | qtRedefined
  | htClass
  | htInvalid
  | frameParam
  | frameTooLarge
  | scanParam
  | markerNotFound
  | qtMissing
  | colorMode
  deriving DecidableEq, Repr

/-- STATUS.ABORT_CAUSE (spec/60_exceptions.md R322): codes 7 to 255 never occur. -/
inductive AbortCause where
  | none
  | eos
  | badCode
  | coefRange
  | badDcCategory
  | badRefineSize
  | refineState
  deriving DecidableEq, Repr

/-- The five scan modes (spec/30_encoding.md R97). -/
inductive ScanMode where
  | baseline
  | dcFirst
  | dcSucc
  | acFirst
  | acSucc
  deriving DecidableEq, Repr

/-- The AC-successive automaton's states 0 to 4 (spec/44_scan_decoder.md R231). -/
inductive AcState where
  /-- 0: a symbol is read next -/
  | initial
  /-- 1: skipping the 16 zeros of a ZRL -/
  | skipZrl
  /-- 2: skipping r zeros before a pending value -/
  | skipRun
  /-- 3: the pending value goes to the next zero coefficient -/
  | setValue
  /-- 4: inside an end-of-band run -/
  | eobRun
  deriving DecidableEq, Repr

/-- A map from natural keys, as a list in canonical form: keys strictly rising. An absent key is an
absent slot, or reads as the map's stated default. -/
abbrev Store (α : Type) := List (Nat × α)

/-- One entry (L, c, sym) of a Huffman code table (spec/10_state.md R53). -/
structure HuffEntry where
  len : Nat
  code : Nat
  sym : Byte
  deriving DecidableEq, Repr

/-- A code table, its entries in the order the codes are assigned (spec/42_huffman.md R162). -/
abbrev HuffTable := List HuffEntry

/-- A quantization table: 64 entries in natural order (spec/10_state.md R52, spec/45_dequant_idct.md R261). -/
abbrev QTable := Vector Half 64

/-- A component record (spec/10_state.md R51). -/
structure Comp where
  cid : Byte
  h : Nat
  v : Nat
  tq : Nat
  bpl : Nat
  bpc : Nat
  bplm : Nat
  bpcm : Nat
  /-- the DC predictor -/
  pred : Coef
  /-- the coefficient memory: key 64·(row·bplm + col) + n; an unlisted element is 0, the value
  SET_FRAME gives every element (spec/43_frame_geometry.md R197, spec/20_memory.md R64) -/
  coefs : Store Coef
  deriving DecidableEq, Repr

/-- The frame record (spec/10_state.md R50); `ncomp` is the number of component records. -/
structure Frame where
  progressive : Bool
  precision : Byte
  samplesPerLine : Nat
  scanLines : Nat
  comps : List Comp
  maxH : Nat
  maxV : Nat
  maxCid : Byte
  mcusPerLine : Nat
  mcusPerColumn : Nat
  deriving DecidableEq, Repr

/-- A scan component: the index of its frame component and its bound tables
(spec/10_state.md R55, spec/44_scan_decoder.md R212). -/
structure ScanComp where
  comp : Nat
  dc : Option HuffTable
  ac : Option HuffTable
  deriving DecidableEq, Repr

/-- What DECODE_SCAN works on: the frame with its blocks, the scan state of spec/10_state.md R55, the
bit reader of R54 with the cursor of spec/41_bit_reader.md R140, MCU_COUNT, and the named locals of
spec/44_scan_decoder.md that a symbol's rule reads (log 4). -/
structure Decoder where
  /-- the frame record; absent while FRAME_VALID = 0 (R50) -/
  frame : Option Frame
  /-- the scan mode, shown as SCAN_INFO.LAST_MODE; absent shows as 7 (R46, R55) -/
  mode : Option ScanMode
  ss : Nat
  se : Nat
  ah : Nat
  al : Nat
  scomps : List ScanComp
  eobrun : Nat
  acState : AcState
  acNext : Coef
  cur : Nat
  bitsData : Byte
  bitsCount : Nat
  /-- the MCU counter, shown as MCU_COUNT (R47, 44 R226) -/
  mcuCount : Nat
  /-- `exp` and `ri` of 44 R210 -/
  mcuExpected : Nat
  interval : Nat
  /-- the block being decoded: index into `scomps`, row and column (44 R218, R219) -/
  blkComp : Nat
  blkRow : Nat
  blkCol : Nat
  /-- `k` and `r` of 44 R227 to R231 -/
  k : Nat
  r : Nat
  deriving DecidableEq, Repr

/-- One component's built lines, `[y][x]` (spec/10_state.md R56, spec/20_memory.md R65). -/
abbrev Plane := List (List Byte)

/-- A pixel-sink event (spec/10_state.md R58). -/
inductive Event where
  | alloc (width height : Half) (srcCs : BitVec 2) (ncomp : Nat)
  | s2 (x y : Half) (c1 c2 : Byte)
  | rgb (x y : Half) (r g b : Byte)
  | ycc (x y : Half) (luma cb cr : Byte)
  deriving DecidableEq, Repr

/-- The host's moves (spec/40_command_interface.md R130) and the place it leaves to the core's step
(spec/20_memory.md R70). A move names one of the 64 word slots of the register window, so a
misaligned or narrow access is no move (spec/20_memory.md R63; log 13). -/
inductive HostMove where
  | read (slot : BitVec 6)
  | write (slot : BitVec 6) (w : Word)
  | streamWrite (a : Word) (b : Byte)
  | coreTurn
  deriving DecidableEq, Repr

/-- A symbol or selector waiting to be executed by itself (log 3). -/
structure Symbol where
  fmt : Format
  bits : Word
  deriving DecidableEq, Repr

/-- The state of the machine. Nothing here is a function; every field is listed in INVENTORY.md. -/
structure State where
  /-- CTRL.IRQ_EN (R23) -/
  irqEn : Bool
  /-- STATUS.BUSY, DONE, SCAN_ABORTED, OVERRUN (R24) -/
  busy : Bool
  done : Bool
  scanAborted : Bool
  overrun : Bool
  errCode : ErrCode
  abortCause : AbortCause
  /-- the command word written to CMD (R57) -/
  pending : Word
  streamLen : Word
  /-- STREAM_POS, the program counter's part (R27) -/
  streamPos : Word
  lastMarker : Half
  errPos : Word
  frameCfg : Word
  frameSize : Word
  compCfg : Four Word
  scanCfg : Word
  scanComp : Four Word
  restartInterval : Half
  srcCsCfg : Word
  outCfg : Word
  outSize : Word
  /-- the EOBRUN register (R48) and SCAN_INFO.AC_STATE (R46) -/
  eobrunReg : Half
  acStateReg : AcState
  dec : Decoder
  /-- the line store; absent while BUILT = 0 (R56) -/
  lines : Option (List Plane)
  /-- the table stores (R52, R53): an unlisted slot is absent -/
  qt : Store QTable
  dcTab : Store HuffTable
  acTab : Store HuffTable
  /-- the sink's events, oldest first (R58) -/
  sink : List Event
  /-- stream memory S (20 R61): addresses strictly rising, no entry equal to the unwritten byte -/
  mem : List Host.Cell
  params : Params
  /-- x and y of COLOR_CONVERT's loops (46 R290; log 4) -/
  px : Nat
  py : Nat
  /-- ghost flags (70 R359; log 14) -/
  faultSeen : Bool
  abortSeen : Bool
  discardSeen : Bool
  /-- the host's coming moves and the values its reads returned (log 1) -/
  agenda : List HostMove
  readLog : List Word
  /-- log 3 -/
  latch : Option Symbol
  deriving DecidableEq, Repr

/-- Why the machine stops. None of these is reached from a well-formed state (Safety.lean), so each
is safe: the model stops where the spec proves that the hardware never goes. -/
inductive Fault where
  /-- a block outside the coefficient memory is addressed; raised by the block selection of a scan and
  by a block or symbol instruction run by itself. Safe: spec/43_frame_geometry.md R196 proves it cannot occur. -/
  | noSuchBlock
  /-- a coefficient position above 63; raised by the coefficient operations of the AC routines. Safe. -/
  | noSuchCoefficient
  /-- a sample outside the line memory; raised by sampling. Safe: spec/46_color.md R295(a). -/
  | noSuchSample
  deriving DecidableEq, Repr

/-- Why an instruction has no meaning here. -/
inductive Refusal where
  /-- an instruction without a meaning yet; no arm of exec answers it. Safe. -/
  | notModelled (mnemonic : String)
  /-- a DC symbol in a mode that reads none, or an AC symbol in a mode that reads none; raised only when
  a symbol is run by itself (log 10). Safe. -/
  | symbolOutsideItsMode
  /-- the latched word is no instruction of its format; raised by step (log 10). Safe. -/
  | undecodable
  /-- the host writes stream memory while BUSY = 1, a duty broken (spec/20_memory.md R72); raised by step. Safe. -/
  | hostWritesStreamWhileBusy
  deriving DecidableEq, Repr

/-- The decoder part after reset (spec/10_state.md R59): no frame, no mode, eobrun = acState = acNext = 0.
The fields that exist only while a scan executes are 0 (log 9). -/
def Decoder.reset : Decoder where
  frame := none
  mode := none
  ss := 0
  se := 0
  ah := 0
  al := 0
  scomps := []
  eobrun := 0
  acState := .initial
  acNext := 0#32
  cur := 0
  bitsData := 0#8
  bitsCount := 0
  mcuCount := 0
  mcuExpected := 0
  interval := 0
  blkComp := 0
  blkRow := 0
  blkCol := 0
  k := 0
  r := 0

/-- The machine right after a power-on reset (spec/10_state.md R59, spec/70_reset_and_hazards.md R351). -/
def State.reset : State where
  irqEn := false
  busy := false
  done := false
  scanAborted := false
  overrun := false
  errCode := .none
  abortCause := .none
  pending := 0#32
  streamLen := 0#32
  streamPos := 0#32
  lastMarker := 0#16
  errPos := 0#32
  frameCfg := 0#32
  frameSize := 0#32
  compCfg := ⟨0#32, 0#32, 0#32, 0#32⟩
  scanCfg := 0#32
  scanComp := ⟨0#32, 0#32, 0#32, 0#32⟩
  restartInterval := 0#16
  srcCsCfg := 0#32
  outCfg := 0#32
  outSize := 0#32
  eobrunReg := 0#16
  acStateReg := .initial
  dec := Decoder.reset
  lines := none
  qt := []
  dcTab := []
  acTab := []
  sink := []
  mem := []
  params := Config.params
  px := 0
  py := 0
  faultSeen := false
  abortSeen := false
  discardSeen := false
  agenda := []
  readLog := []
  latch := none

end Sys2Proof.Machine
end

