-- ==== Sys2Proof/Machine/Store.lean ====
section
/-! DEFINITION. Maps and memories as lists in canonical form: look up, put, drop, and the form itself. -/

namespace Sys2Proof.Machine

/-- The entry at key `a`, if there is one. -/
def storeGet {α : Type} (a : Nat) : Store α → Option α
  | [] => none
  | (b, v) :: rest => if a = b then some v else storeGet a rest

/-- Put `v` at key `a`, keeping the keys rising. -/
def storePut {α : Type} (a : Nat) (v : α) : Store α → Store α
  | [] => [(a, v)]
  | (b, w) :: rest =>
    if a < b then (a, v) :: (b, w) :: rest
    else if a = b then (a, v) :: rest
    else (b, w) :: storePut a v rest

/-- Take the entry at key `a` away. -/
def storeDrop {α : Type} (a : Nat) : Store α → Store α
  | [] => []
  | (b, w) :: rest => if a = b then rest else (b, w) :: storeDrop a rest

/-- Keys strictly rising. -/
abbrev Store.rising {α : Type} (m : Store α) : Prop := (m.map Prod.fst).Pairwise (· < ·)

/-- Read a memory whose unlisted cells hold `dflt`. -/
def cellGet {α : Type} (dflt : α) (a : Nat) (m : Store α) : α := (storeGet a m).getD dflt

/-- Write a memory whose unlisted cells hold `dflt`: writing `dflt` removes the entry. -/
def cellPut {α : Type} [DecidableEq α] (dflt : α) (a : Nat) (v : α) (m : Store α) : Store α :=
  if v = dflt then storeDrop a m else storePut a v m

/-- The canonical form of a memory whose unlisted cells hold `dflt`. -/
abbrev Store.canonical {α : Type} [DecidableEq α] (dflt : α) (m : Store α) : Prop :=
  Store.rising m ∧ ∀ e ∈ m, e.2 ≠ dflt

/-- One byte of stream memory (spec/20_memory.md R61). -/
def Memory.read (m : List Host.Cell) (a : Nat) : Byte := cellGet Config.unwrittenByte a m

/-- A host write of one byte of stream memory. -/
def Memory.write (m : List Host.Cell) (a : Nat) (b : Byte) : List Host.Cell :=
  cellPut Config.unwrittenByte a b m

/-- The canonical form of stream memory: addresses strictly rising and below 2^32, no entry equal to
what an unlisted address reads as. -/
abbrev Memory.wf (m : List Host.Cell) : Prop :=
  Store.canonical Config.unwrittenByte m ∧ ∀ e ∈ m, e.1 < 4294967296

end Sys2Proof.Machine
end

