-- ==== Sys2Proof/Machine/Ops.lean ====
section
/-! DEFINITION. The shared operations: reading the stream, raising a fatal error, ending a command, the error gate, ending a scan, reset. -/

namespace Sys2Proof.Machine

/-- What one step answers. -/
abbrev Result := Host.Outcome State Fault Refusal

/-- The byte the core may read at stream address `a`: S[a] below STREAM_LEN, nothing at or beyond it
(spec/20_memory.md R61). This is the core's only access to stream memory. -/
def State.streamByte (s : State) (a : Nat) : Option Byte :=
  if a < s.streamLen.toNat then some (Memory.read s.mem a) else none

/-- The end of every command step: `busy <- 0`, `STATUS.DONE <- 1` (spec/40_command_interface.md R121). -/
def finish (s : State) : State := { s with busy := false, done := true }

/-- Taking a fatal error, `raise Fatal(code)` (spec/40_command_interface.md R122): ERR_CODE and ERR_POS
are written and the ghost flag of spec/70_reset_and_hazards.md R359 is set. -/
def raiseFatal (code : ErrCode) (pos : Word) (s : State) : State :=
  { s with errCode := code, errPos := pos, faultSeen := true }

/-- A fatal error that ends its command: DONE is set as at every end (R121, R122). -/
def fatalEnd (code : ErrCode) (pos : Word) (s : State) : Result :=
  .next (finish (raiseFatal code pos s))

/-- A fatal error of a command that makes all its checks before its first write. -/
structure CommandError where
  code : ErrCode
  pos : Word
  deriving DecidableEq, Repr

/-- The end of LOAD_DQT, LOAD_DHT, SET_FRAME, BUILD_COMPONENTS and COLOR_CONVERT: the new state, or the
state from before the command with the error recorded (spec/40_command_interface.md R122). -/
def endCommand (s : State) : Except CommandError State → Result
  | .ok t => .next (finish t)
  | .error e => fatalEnd e.code e.pos s

/-- The error-state gate (spec/40_command_interface.md R120): while ERR_CODE ≠ 0 only NOP and CLEAR
are executed. -/
def gateDiscards (s : State) : Bool :=
  (s.errCode != .none) && (s.pending != 0#32) && (s.pending != 1#32)

/-- A discarded command: OVERRUN and DONE are set, BUSY is cleared, nothing else changes (R120). -/
def discardCommand (s : State) : State :=
  finish { s with overrun := true, discardSeen := true }

/-- The reset procedure (spec/70_reset_and_hazards.md R351): every register and all internal state at
the reset values. Stream memory, the parameters and what belongs to the run (ghost flags, the host's
moves, the values it has read) are not the core's to reset. -/
def softReset (s : State) : State :=
  { State.reset with
    mem := s.mem, params := s.params, faultSeen := s.faultSeen, abortSeen := s.abortSeen,
    discardSeen := s.discardSeen, agenda := s.agenda, readLog := s.readLog }

/-- CLEAR's effect (spec/40_command_interface.md R124), before the end of the step. -/
def clearState (s : State) : State :=
  { s with
    dec := { s.dec with
      frame := none, mode := none, eobrun := 0, acState := .initial, acNext := 0#32, mcuCount := 0 }
    lines := none, qt := [], dcTab := [], acTab := []
    eobrunReg := 0#16, acStateReg := .initial
    lastMarker := 0#16, errPos := 0#32, errCode := .none, abortCause := .none
    frameCfg := 0#32, frameSize := 0#32, compCfg := ⟨0#32, 0#32, 0#32, 0#32⟩
    scanCfg := 0#32, scanComp := ⟨0#32, 0#32, 0#32, 0#32⟩, restartInterval := 0#16
    srcCsCfg := 0#32, outCfg := 0#32, outSize := 0#32 }

/-- `Align()` (spec/41_bit_reader.md R145). -/
def align (d : Decoder) : Decoder := { d with bitsCount := 0 }

/-- What every end of a scan writes (spec/44_scan_decoder.md R226): STREAM_POS, EOBRUN and AC_STATE. -/
def scanProgress (s : State) : State :=
  { s with
    streamPos := BitVec.ofNat 32 s.dec.cur
    eobrunReg := BitVec.ofNat 16 s.dec.eobrun
    acStateReg := s.dec.acState }

/-- `EndScan(m)` (spec/44_scan_decoder.md R210, R221, R223). -/
def endScan (m : Half) (s : State) : State := { scanProgress s with lastMarker := m }

/-- A scan abort (spec/44_scan_decoder.md R224), with the ghost flag of spec/70_reset_and_hazards.md R359. -/
def abortScan (c : AbortCause) (s : State) : State :=
  { endScan 0xFFD9#16 { s with dec := align s.dec } with
    scanAborted := true, abortCause := c, abortSeen := true }

/-- How a scan's rule can end early. -/
inductive Exit where
  /-- `raise Abort(cause)`, or EndOfStream inside an MCU as cause EOS (41 R148, 44 R224) -/
  | abort (c : AbortCause)
  /-- `raise MarkerHit(m)` (41 R144) -/
  | marker (m : Half)
  /-- a check of 44 R211 fails: the fatal error with ERR_POS = STREAM_POS and no other change -/
  | check (c : ErrCode)
  /-- the fatal error of the end-of-interval marker read (44 R220, R222) -/
  | interval (c : ErrCode) (pos : Nat)
  /-- the model stops (Fault) -/
  | stop (f : Fault)
  /-- the symbol has no meaning in the scan's mode (log 10) -/
  | refuse (r : Refusal)
  deriving DecidableEq, Repr

/-- What a scan's rule answers: a value and the decoder after it, or how it ended and the decoder then. -/
inductive Res (α : Type) where
  | ok (a : α) (d : Decoder)
  | raise (e : Exit) (d : Decoder)

/-- Go on with the value and the decoder, unless the rule ended. -/
def Res.andThen {α β : Type} (x : Res α) (f : α → Decoder → Res β) : Res β :=
  match x with
  | .ok a d => f a d
  | .raise e d => .raise e d

/-- The end of DECODE_SCAN when its rule ended early (44 R222, R223, R224). -/
def endScanBy (s : State) (e : Exit) (d : Decoder) : Result :=
  match e with
  | .abort c => .next (finish (abortScan c { s with dec := d }))
  | .marker m => .next (finish (endScan m { s with dec := d }))
  | .check c => fatalEnd c s.streamPos s
  | .interval c pos => fatalEnd c (BitVec.ofNat 32 pos) (scanProgress { s with dec := d })
  | .stop f => .fault f
  | .refuse r => .refused r

end Sys2Proof.Machine
end

