-- ==== Sys2Proof/Machine/Operands.lean ====
section
/-! DEFINITION. The operands of the commands: the fields of the configuration registers, by the names of spec/10_state.md. -/

namespace Sys2Proof.Machine

/-- The four registers in index order. -/
def fourToList {α : Type} (f : Four α) : List α := [f.x0, f.x1, f.x2, f.x3]

/-- Register number `i` of four. -/
def fourGet {α : Type} (f : Four α) (i : Fin 4) : α :=
  match i with
  | 0 => f.x0
  | 1 => f.x1
  | 2 => f.x2
  | 3 => f.x3

/-- Write register number `i` of four. -/
def fourSet {α : Type} (f : Four α) (i : Fin 4) (a : α) : Four α :=
  match i with
  | 0 => { f with x0 := a }
  | 1 => { f with x1 := a }
  | 2 => { f with x2 := a }
  | 3 => { f with x3 := a }

/-- FRAME_CFG fields (10 R30). -/
def cfgProgressive (s : State) : Bool := s.frameCfg.getLsbD 0
def cfgPrecision (s : State) : Byte := bitsAt s.frameCfg 8 8
def cfgNcomp (s : State) : Nat := fieldNat s.frameCfg 16 3

/-- FRAME_SIZE fields (10 R31). -/
def cfgSamplesPerLine (s : State) : Nat := fieldNat s.frameSize 0 16
def cfgScanLines (s : State) : Nat := fieldNat s.frameSize 16 16

/-- The COMP_CFG registers SET_FRAME reads: i < NCOMP (10 R32). -/
def frameCompCfgs (s : State) : List Word := (fourToList s.compCfg).take (cfgNcomp s)

/-- COMP_CFGi fields (10 R32). -/
def compCid (w : Word) : Byte := bitsAt w 0 8
def compH (w : Word) : Nat := fieldNat w 8 4
def compV (w : Word) : Nat := fieldNat w 12 4
def compTq (w : Word) : Nat := fieldNat w 16 4

/-- SCAN_CFG fields (10 R38). -/
def cfgNs (s : State) : Nat := fieldNat s.scanCfg 0 3
def cfgSs (s : State) : Nat := fieldNat s.scanCfg 8 8
def cfgSe (s : State) : Nat := fieldNat s.scanCfg 16 8
def cfgAh (s : State) : Nat := fieldNat s.scanCfg 24 4
def cfgAl (s : State) : Nat := fieldNat s.scanCfg 28 4

/-- The SCAN_COMP registers DECODE_SCAN reads: j < NS (10 R39). -/
def scanCompCfgs (s : State) : List Word := (fourToList s.scanComp).take (cfgNs s)

/-- SCAN_COMPj fields (10 R39). -/
def scanCid (w : Word) : Byte := bitsAt w 0 8
def scanTd (w : Word) : Nat := fieldNat w 8 4
def scanTa (w : Word) : Nat := fieldNat w 12 4

/-- SRC_CS_CFG fields (10 R41). -/
def adobePresent (s : State) : Bool := s.srcCsCfg.getLsbD 0
def adobeCs (s : State) : BitVec 2 := bitsAt s.srcCsCfg 4 2

/-- OUT_CFG and OUT_SIZE fields (10 R42, R43). -/
def outCs (s : State) : BitVec 2 := bitsAt s.outCfg 0 2
def outW (s : State) : Nat := fieldNat s.outSize 0 16
def outH (s : State) : Nat := fieldNat s.outSize 16 16

/-- The number of components SRC_CS counts: the latched frame's, else FRAME_CFG.NCOMP (10 R44). -/
def srcNcomp (s : State) : Nat :=
  match s.dec.frame with
  | some f => f.comps.length
  | none => cfgNcomp s

/-- The resolved source colour space (10 R44, 46 R292): 0 YCbCr, 2 CMYK, 3 YCCK. -/
def srcCs (s : State) : BitVec 2 :=
  if adobePresent s then adobeCs s
  else if srcNcomp s = 4 then 2#2
  else 0#2

end Sys2Proof.Machine
end

