-- ==== Sys2Proof/Machine/Flags.lean ====
section
/-! DEFINITION. The status words: STATUS with its write-1-to-clear flags, TABLE_VALID, SCAN_INFO and the interrupt line. -/

namespace Sys2Proof.Machine

/-- The code of a fatal error (60 R321). -/
def errBits : ErrCode → Byte
  | .none => 0
  | .illegalCmd => 1
  | .sequence => 2
  | .streamEos => 3
  | .qtPrecision => 4
  | .qtRedefined => 5
  | .htClass => 6
  | .htInvalid => 7
  | .frameParam => 8
  | .frameTooLarge => 9
  | .scanParam => 10
  | .markerNotFound => 11
  | .qtMissing => 12
  | .colorMode => 13

/-- The code of a scan-abort cause (60 R322). -/
def abortBits : AbortCause → Byte
  | .none => 0
  | .eos => 1
  | .badCode => 2
  | .coefRange => 3
  | .badDcCategory => 4
  | .badRefineSize => 5
  | .refineState => 6

/-- SCAN_INFO.LAST_MODE: the mode's code, 7 for no scan (10 R46, 30 R97). -/
def modeBits : Option ScanMode → BitVec 3
  | some .baseline => 0
  | some .dcFirst => 1
  | some .dcSucc => 2
  | some .acFirst => 3
  | some .acSucc => 4
  | none => 7

/-- SCAN_INFO.AC_STATE (10 R46). -/
def acStateBits : AcState → BitVec 3
  | .initial => 0
  | .skipZrl => 1
  | .skipRun => 2
  | .setValue => 3
  | .eobRun => 4

/-- STATUS.ERROR equals (ERR_CODE ≠ 0) at all times (10 R24). -/
def State.error (s : State) : Bool := s.errCode != .none
/-- STATUS.FRAME_VALID (10 R24, R50). -/
def State.frameValid (s : State) : Bool := s.dec.frame.isSome
/-- STATUS.BUILT (10 R24, R56). -/
def State.built (s : State) : Bool := s.lines.isSome
/-- The interrupt line, a level: IRQ_EN ∧ DONE (60 R327). -/
def State.irq (s : State) : Bool := s.irqEn && s.done

/-- STATUS as the host reads it (10 R24). -/
def statusWord (s : State) : Word :=
  (0#8 ++ abortBits s.abortCause ++ errBits s.errCode ++ 0#1 ++ BitVec.ofBool s.built ++
    BitVec.ofBool s.frameValid ++ BitVec.ofBool s.overrun ++ BitVec.ofBool s.scanAborted ++
    BitVec.ofBool s.error ++ BitVec.ofBool s.done ++ BitVec.ofBool s.busy).setWidth 32

/-- A write to STATUS: bits 1, 3 and 4 written as 1 clear DONE, SCAN_ABORTED and OVERRUN (10 R24). -/
def writeStatus (w : Word) (s : State) : State :=
  { s with
    done := s.done && !w.getLsbD 1
    scanAborted := s.scanAborted && !w.getLsbD 3
    overrun := s.overrun && !w.getLsbD 4 }

/-- Slot `t` of a table store holds a table. -/
def slotFull {α : Type} (t : Nat) (m : Store α) : Bool := (storeGet t m).isSome

/-- The low `n` slots of a store as bits, slot 0 the least significant. -/
def slotBits {α : Type} (m : Store α) : Nat → Nat
  | 0 => 0
  | n + 1 => slotBits m n + (if slotFull n m then 2 ^ n else 0)

/-- TABLE_VALID (10 R45). -/
def tableValidWord (s : State) : Word :=
  BitVec.ofNat 32 (slotBits s.qt 16 + 2 ^ 16 * slotBits s.dcTab 4 + 2 ^ 20 * slotBits s.acTab 4)

/-- SCAN_INFO (10 R46). -/
def scanInfoWord (s : State) : Word :=
  (acStateBits s.acStateReg ++ 0#1 ++ modeBits s.dec.mode).setWidth 32

end Sys2Proof.Machine
end

