-- ==== Sys2Proof/Machine/Bus.lean ====
section
/-! DEFINITION. The register window: the map of spec/10_state.md R21, reads without side effect, writes with the actions of CMD, CTRL and STATUS. -/

namespace Sys2Proof.Machine

/-- The registers of the window (10 R21). -/
inductive Reg where
  | id
  | ctrl
  | status
  | cmd
  | streamLen
  | streamPos
  | lastMarker
  | errPos
  | frameCfg
  | frameSize
  | compCfg (i : Fin 4)
  | frameDim
  | frameGeom
  | frameMax
  | compBlk (i : Fin 4)
  | compBlkM (i : Fin 4)
  | scanCfg
  | scanComp (i : Fin 4)
  | restartInterval
  | srcCsCfg
  | outCfg
  | outSize
  | srcCs
  | tableValid
  | scanInfo
  | mcuCount
  | eobrun
  | reserved
  deriving DecidableEq, Repr

/-- The register map by byte offset (10 R21, R49). -/
def regAt (offset : Nat) : Reg :=
  match offset with
  | 0x000 => .id
  | 0x004 => .ctrl
  | 0x008 => .status
  | 0x00C => .cmd
  | 0x010 => .streamLen
  | 0x014 => .streamPos
  | 0x018 => .lastMarker
  | 0x01C => .errPos
  | 0x020 => .frameCfg
  | 0x024 => .frameSize
  | 0x028 => .compCfg 0
  | 0x02C => .compCfg 1
  | 0x030 => .compCfg 2
  | 0x034 => .compCfg 3
  | 0x038 => .frameDim
  | 0x03C => .frameGeom
  | 0x040 => .frameMax
  | 0x044 => .compBlk 0
  | 0x048 => .compBlk 1
  | 0x04C => .compBlk 2
  | 0x050 => .compBlk 3
  | 0x054 => .compBlkM 0
  | 0x058 => .compBlkM 1
  | 0x05C => .compBlkM 2
  | 0x060 => .compBlkM 3
  | 0x064 => .scanCfg
  | 0x068 => .scanComp 0
  | 0x06C => .scanComp 1
  | 0x070 => .scanComp 2
  | 0x074 => .scanComp 3
  | 0x078 => .restartInterval
  | 0x07C => .srcCsCfg
  | 0x080 => .outCfg
  | 0x084 => .outSize
  | 0x088 => .srcCs
  | 0x08C => .tableValid
  | 0x090 => .scanInfo
  | 0x094 => .mcuCount
  | 0x098 => .eobrun
  | _ => .reserved

/-- The register a word slot names: its byte offset is 4 · slot (10 R21, 20 R63). -/
def regOfSlot (slot : BitVec 6) : Reg := regAt (4 * slot.toNat)

/-- Two 16-bit halves as one register, the first in bits 15:0. -/
def halves (lo hi : Nat) : Word := BitVec.ofNat 16 hi ++ BitVec.ofNat 16 lo

/-- FRAME_MAX of a latched frame (10 R35). -/
def frameMaxWord (f : Frame) : Word :=
  (BitVec.ofBool f.progressive ++ 0#5 ++ BitVec.ofNat 3 f.comps.length ++ f.maxCid ++
    BitVec.ofNat 4 f.maxV ++ BitVec.ofNat 4 f.maxH).setWidth 32

/-- A view of the latched frame, 0 while FRAME_VALID = 0 (10 R33 to R35). -/
def frameView (s : State) (view : Frame → Word) : Word :=
  match s.dec.frame with
  | some f => view f
  | none => 0#32

/-- A view of component `i` of the latched frame, 0 where there is none (10 R36, R37). -/
def compView (s : State) (i : Nat) (view : Comp → Word) : Word :=
  match s.dec.frame with
  | some f =>
    match f.comps[i]? with
    | some c => view c
    | none => 0#32
  | none => 0#32

/-- Reading a register (10 R22 to R49): the stored or computed value; no side effect (20 R69). -/
def readReg (r : Reg) (s : State) : Word :=
  match r with
  | .id => Config.idValue
  | .ctrl => (BitVec.ofBool s.irqEn).setWidth 32
  | .status => statusWord s
  | .cmd => 0#32
  | .streamLen => s.streamLen
  | .streamPos => s.streamPos
  | .lastMarker => s.lastMarker.setWidth 32
  | .errPos => s.errPos
  | .frameCfg => s.frameCfg
  | .frameSize => s.frameSize
  | .compCfg i => fourGet s.compCfg i
  | .frameDim => frameView s fun f => halves f.samplesPerLine f.scanLines
  | .frameGeom => frameView s fun f => halves f.mcusPerLine f.mcusPerColumn
  | .frameMax => frameView s frameMaxWord
  | .compBlk i => compView s i.val fun c => halves c.bpl c.bpc
  | .compBlkM i => compView s i.val fun c => halves c.bplm c.bpcm
  | .scanCfg => s.scanCfg
  | .scanComp i => fourGet s.scanComp i
  | .restartInterval => s.restartInterval.setWidth 32
  | .srcCsCfg => s.srcCsCfg
  | .outCfg => s.outCfg
  | .outSize => s.outSize
  | .srcCs => (srcCs s).setWidth 32
  | .tableValid => tableValidWord s
  | .scanInfo => scanInfoWord s
  | .mcuCount => BitVec.ofNat 32 s.dec.mcuCount
  | .eobrun => s.eobrunReg.setWidth 32
  | .reserved => 0#32

/-- The implemented bits of a configuration register; writes to the other bits are ignored (10 R21). -/
def frameCfgMask : Word := 0x0007FF01#32
def compCfgMask : Word := 0x000FFFFF#32
def scanCfgMask : Word := 0xFFFFFF07#32
def scanCompMask : Word := 0x0000FFFF#32
def srcCsCfgMask : Word := 0x00000031#32
def outCfgMask : Word := 0x00000003#32

/-- A write to CTRL (10 R23): SOFT_RESET = 1 resets at once and the write's IRQ_EN bit is not stored. -/
def writeCtrl (w : Word) (s : State) : State :=
  if w.getLsbD 1 then softReset s else { s with irqEn := w.getLsbD 0 }

/-- Writing a register while BUSY = 0 (10 R21 to R49; CMD by 40 R120). Writes to read-only registers and
reserved offsets are ignored. -/
def writeReg (r : Reg) (w : Word) (s : State) : State :=
  match r with
  | .id => s
  | .ctrl => writeCtrl w s
  | .status => writeStatus w s
  | .cmd => { s with busy := true, pending := w }
  | .streamLen => { s with streamLen := w }
  | .streamPos => { s with streamPos := w }
  | .lastMarker => s
  | .errPos => s
  | .frameCfg => { s with frameCfg := w &&& frameCfgMask }
  | .frameSize => { s with frameSize := w }
  | .compCfg i => { s with compCfg := fourSet s.compCfg i (w &&& compCfgMask) }
  | .frameDim => s
  | .frameGeom => s
  | .frameMax => s
  | .compBlk _ => s
  | .compBlkM _ => s
  | .scanCfg => { s with scanCfg := w &&& scanCfgMask }
  | .scanComp i => { s with scanComp := fourSet s.scanComp i (w &&& scanCompMask) }
  | .restartInterval => { s with restartInterval := bitsAt w 0 16 }
  | .srcCsCfg => { s with srcCsCfg := w &&& srcCsCfgMask }
  | .outCfg => { s with outCfg := w &&& outCfgMask }
  | .outSize => { s with outSize := w }
  | .srcCs => s
  | .tableValid => s
  | .scanInfo => s
  | .mcuCount => s
  | .eobrun => s
  | .reserved => s

/-- A host write of a word slot: discarded, with OVERRUN set, while BUSY = 1 (40 R126). -/
def busWrite (slot : BitVec 6) (w : Word) (s : State) : State :=
  if s.busy then { s with overrun := true, discardSeen := true }
  else writeReg (regOfSlot slot) w s

/-- A host read of a word slot, allowed at any time (40 R126, R127): the value goes to the host. -/
def busRead (slot : BitVec 6) (s : State) : State :=
  { s with readLog := s.readLog ++ [readReg (regOfSlot slot) s] }

/-- A host write of stream memory, a duty to make only while BUSY = 0 (20 R72; log 12). -/
def streamPoke (a : Word) (b : Byte) (s : State) : Result :=
  if s.busy then .refused .hostWritesStreamWhileBusy
  else .next { s with mem := Memory.write s.mem a.toNat b }

end Sys2Proof.Machine
end

