-- ==== Sys2Proof/Machine/QuantTables.lean ====
section
/-! DEFINITION. LOAD_DQT and the rows of its PqTq byte (spec/45_dequant_idct.md R260 to R263, spec/30_encoding.md R88). -/

namespace Sys2Proof.Machine

/-- The zigzag table Z (45 R263). -/
def zigzagTable : List Nat :=
  [0, 1, 8, 16, 9, 2, 3, 10, 17, 24, 32, 25, 18, 11, 4, 5]
  ++ [12, 19, 26, 33, 40, 48, 41, 34, 27, 20, 13, 6, 7, 14, 21, 28]
  ++ [35, 42, 49, 56, 57, 50, 43, 36, 29, 22, 15, 23, 30, 37, 44, 51]
  ++ [58, 59, 52, 45, 38, 31, 39, 46, 53, 60, 61, 54, 47, 55, 62, 63]

/-- Z[k], the natural index of zigzag position k; there is none above 63. -/
def zigzag (k : Nat) : Option Nat := zigzagTable[k]?

/-- `n` calls of Fetch8 from cursor `cur` (41 R141): the bytes in order, or the address of the first
byte that lies at or beyond STREAM_LEN. -/
def readBytes (s : State) : Nat → Nat → Except Nat (List Byte)
  | 0, _ => .ok []
  | n + 1, cur =>
    match s.streamByte cur with
    | none => .error cur
    | some b =>
      match readBytes s n (cur + 1) with
      | .ok bs => .ok (b :: bs)
      | .error p => .error p

/-- Consecutive byte pairs as big-endian 16-bit values (20 R67). -/
def pairUp : List Byte → List Half
  | hi :: lo :: rest => bigEndian hi lo :: pairUp rest
  | _ => []

/-- De-zigzag (45 R261): stream entry number k goes to natural index Z[k]. -/
def placeEntries : Nat → List Half → QTable → QTable
  | _, [], q => q
  | k, v :: vs, q =>
    match zigzag k with
    | some n => placeEntries (k + 1) vs (q.setIfInBounds n v)
    | none => q

/-- The quantization table of 64 stream entries in zigzag order. -/
def deZigzag (entries : List Half) : QTable := placeEntries 0 entries (Vector.replicate 64 0#16)

/-- The STREAM_EOS error of a table command: ERR_POS is the address of the missing byte (60 R323). -/
def missingByte (p : Nat) : CommandError := { code := .streamEos, pos := BitVec.ofNat 32 p }

/-- LOAD_DQT after its PqTq byte, which stands at STREAM_POS (45 R260): refuse a full slot, read 64
entries of one or two bytes, fill the slot, move STREAM_POS to the next group. DESIGN CHOICE (log 25): a row run by
itself takes its byte as read, whether or not it or any byte stands at STREAM_POS; LOAD_DQT fetches it first. -/
def dqtGroup (wide : Bool) (tq : BitVec 4) (s : State) : Except CommandError State :=
  let start := s.streamPos.toNat + 1
  let size := if wide then 128 else 64
  if (storeGet tq.toNat s.qt).isSome then .error { code := .qtRedefined, pos := s.streamPos }
  else
    match readBytes s size start with
    | .error p => .error (missingByte p)
    | .ok bytes =>
      let entries := if wide then pairUp bytes else bytes.map (·.setWidth 16)
      .ok { s with
        qt := storePut tq.toNat (deZigzag entries) s.qt
        streamPos := BitVec.ofNat 32 (start + size) }

/-- QT_PRECISION: Pq > 1 (45 R260); ERR_POS is the address of the PqTq byte, which a row run by itself takes as read
(DESIGN CHOICE, log 25). -/
def qtPrecisionError (s : State) : Result := fatalEnd .qtPrecision s.streamPos s

/-- DQT_GROUP_8BIT (30 R88). -/
def execDqtGroup8 (tq : BitVec 4) (s : State) : Result := endCommand s (dqtGroup false tq s)

/-- DQT_GROUP_16BIT (30 R88). -/
def execDqtGroup16 (tq : BitVec 4) (s : State) : Result := endCommand s (dqtGroup true tq s)

/-- DQT_RESERVED, Pq 2 to 3 (30 R101). -/
def execDqtReserved2 (_pq _tq : BitVec 4) (s : State) : Result := qtPrecisionError s

/-- DQT_RESERVED, Pq 4 to 7 (30 R101). -/
def execDqtReserved4 (_pq _tq : BitVec 4) (s : State) : Result := qtPrecisionError s

/-- DQT_RESERVED, Pq 8 to 15 (30 R101). -/
def execDqtReserved8 (_pq _tq : BitVec 4) (s : State) : Result := qtPrecisionError s

/-- The meaning of a PqTq byte, by Pq = its high nibble (45 R260). -/
def dqtByte (b : Byte) (s : State) : Result :=
  let pq : BitVec 4 := bitsAt b 4 4
  let tq : BitVec 4 := bitsAt b 0 4
  if pq = 0#4 then execDqtGroup8 tq s
  else if pq = 1#4 then execDqtGroup16 tq s
  else if pq < 4#4 then execDqtReserved2 pq tq s
  else if pq < 8#4 then execDqtReserved4 pq tq s
  else execDqtReserved8 pq tq s

/-- LOAD_DQT (45 R260): fetch the PqTq byte at STREAM_POS and load the group. -/
def execLoadDqt (s : State) : Result :=
  match s.streamByte s.streamPos.toNat with
  | none => endCommand s (.error (missingByte s.streamPos.toNat))
  | some b => dqtByte b s

end Sys2Proof.Machine
end

