-- ==== Sys2Proof/Machine/Reader.lean ====
section
/-! DEFINITION. The bit reader and Huffman decoding (spec/41_bit_reader.md R141 to R148, spec/42_huffman.md R166 to R169). -/

namespace Sys2Proof.Machine

/-- Deliver the first bit of a data byte (41 R142): bit 7 now, bits 6 to 0 by later calls. -/
def deliver (b : Byte) (d : Decoder) : Res Bool :=
  .ok (b.getLsbD 7) { d with bitsData := b, bitsCount := 7 }

/-- ReadBit (41 R142 to R144). `src a` is the byte at stream address `a`, nothing beyond STREAM_LEN;
EndOfStream inside an MCU is Abort(EOS) (41 R148). -/
def readBit (src : Nat → Option Byte) (d : Decoder) : Res Bool :=
  if 0 < d.bitsCount then
    .ok (d.bitsData.getLsbD (d.bitsCount - 1)) { d with bitsCount := d.bitsCount - 1 }
  else
    match src d.cur with
    | none => .raise (.abort .eos) d
    | some b =>
      if b = 0xFF#8 then
        match src (d.cur + 1) with
        | none => .raise (.abort .eos) { d with cur := d.cur + 1 }
        | some n =>
          if n = 0x00#8 then deliver b { d with cur := d.cur + 2 }
          else .raise (.marker (bigEndian b n)) { d with cur := d.cur + 2 }
      else deliver b { d with cur := d.cur + 1 }

/-- Receive(n) with the bits already read as `v` (41 R146). -/
def receiveFrom (src : Nat → Option Byte) : Nat → Nat → Decoder → Res Nat
  | 0, v, d => .ok v d
  | n + 1, v, d =>
    (readBit src d).andThen fun b d' => receiveFrom src n (2 * v + b.toNat) d'

/-- Receive(n) (41 R146). -/
def receive (src : Nat → Option Byte) (n : Nat) (d : Decoder) : Res Nat := receiveFrom src n 0 d

/-- Extend(v, n) (42 R168). -/
def extend (v n : Nat) : Int :=
  if n = 0 then 0
  else if 2 ^ (n - 1) ≤ v then (v : Int)
  else (v : Int) - 2 ^ n + 1

/-- ReceiveExtend(n) (42 R169), as an int32. -/
def receiveExtend (src : Nat → Option Byte) (n : Nat) (d : Decoder) : Res Coef :=
  (receive src n d).andThen fun v d' => .ok (BitVec.ofInt 32 (extend v n)) d'

/-- The symbol of codeword (len, code), if the table has it. -/
def tableSymbol (len code : Nat) : HuffTable → Option Byte
  | [] => none
  | e :: rest => if e.len = len ∧ e.code = code then some e.sym else tableSymbol len code rest

/-- Some codeword of the table is longer than `len` and begins with the bits `code`. -/
def codeContinues (len code : Nat) (t : HuffTable) : Bool :=
  t.any fun e => (len < e.len) && (e.code >>> (e.len - len) == code)

/-- DecodeHuffman(T) after `len` bits with value `code` (42 R166, R167). The fuel is 16, the longest
codeword: on a table of codewords up to 16 bits the loop answers before it is spent. -/
def huffmanFrom (src : Nat → Option Byte) (t : HuffTable) : Nat → Nat → Nat → Decoder → Res Byte
  | 0, _, _, d => .raise (.abort .badCode) d
  | fuel + 1, len, code, d =>
    (readBit src d).andThen fun b d' =>
      let code' := 2 * code + b.toNat
      match tableSymbol (len + 1) code' t with
      | some sym => .ok sym d'
      | none =>
        if codeContinues (len + 1) code' t then huffmanFrom src t fuel (len + 1) code' d'
        else .raise (.abort .badCode) d'

/-- DecodeHuffman(T) (42 R166). -/
def decodeHuffman (src : Nat → Option Byte) (t : HuffTable) (d : Decoder) : Res Byte :=
  huffmanFrom src t 16 0 0 d

end Sys2Proof.Machine
end

