-- ==== Sys2Proof/Machine/Block.lean ====
section
/-! DEFINITION. The block a scan works on: selecting it, its coefficients, its component's predictor (spec/10_state.md R51, R55; spec/44_scan_decoder.md R218, R219, R232, R234). -/

namespace Sys2Proof.Machine

/-- The scan component of the block being decoded. -/
def curScanComp (d : Decoder) : Option ScanComp := d.scomps[d.blkComp]?

/-- A frame component, if the frame has it. -/
def frameComp (d : Decoder) (i : Nat) : Option Comp :=
  match d.frame with
  | some f => f.comps[i]?
  | none => none

/-- The component record of the block being decoded. -/
def curComp (d : Decoder) : Option Comp :=
  match curScanComp d with
  | some sc => frameComp d sc.comp
  | none => none

/-- The coefficient memory holds block (row, col) of the component: row < bpcm and col < bplm
(20 R64, 43 R196). -/
def Comp.hasBlock (c : Comp) (row col : Nat) : Bool := (row < c.bpcm) && (col < c.bplm)

/-- The block being decoded exists. -/
def blockHere (d : Decoder) : Bool :=
  match curComp d with
  | some c => c.hasBlock d.blkRow d.blkCol
  | none => false

/-- The key of coefficient n of block (row, col), n in natural order. -/
def coefKey (c : Comp) (row col n : Nat) : Nat := 64 * (row * c.bplm + col) + n

/-- `blocks[row][col][n]`; an element nothing has written is 0 (43 R197). -/
def Comp.coef (c : Comp) (row col n : Nat) : Coef := cellGet 0#32 (coefKey c row col n) c.coefs

/-- Write `blocks[row][col][n]`. -/
def Comp.setCoef (c : Comp) (row col n : Nat) (v : Coef) : Comp :=
  { c with coefs := cellPut 0#32 (coefKey c row col n) v c.coefs }

/-- Change component `i` of the frame. -/
def modifyComp (i : Nat) (g : Comp → Comp) (d : Decoder) : Decoder :=
  match d.frame with
  | some f => { d with frame := some { f with comps := f.comps.modify i g } }
  | none => d

/-- Change the component of the block being decoded. -/
def modifyCur (g : Comp → Comp) (d : Decoder) : Decoder :=
  match curScanComp d with
  | some sc => modifyComp sc.comp g d
  | none => d

/-- `blk[n]` of the block being decoded. -/
def blkGet (n : Nat) (d : Decoder) : Coef :=
  match curComp d with
  | some c => c.coef d.blkRow d.blkCol n
  | none => 0#32

/-- `blk[n] <- v`. -/
def blkSet (n : Nat) (v : Coef) (d : Decoder) : Decoder :=
  modifyCur (fun c => c.setCoef d.blkRow d.blkCol n v) d

/-- `c.pred` of the block's component. -/
def curPred (d : Decoder) : Coef :=
  match curComp d with
  | some c => c.pred
  | none => 0#32

/-- `c.pred <- v`. -/
def setCurPred (v : Coef) (d : Decoder) : Decoder := modifyCur (fun c => { c with pred := v }) d

/-- Work on the coefficient at zigzag position `k` (45 R263). -/
def withPosition (k : Nat) (d : Decoder) (f : Nat → Res Unit) : Res Unit :=
  match zigzag k with
  | some n => f n
  | none => .raise (.stop .noSuchCoefficient) d

/-- `blk[Z[k]] <- v`, then `k <- k + 1`. -/
def placeAt (v : Coef) (d : Decoder) : Res Unit :=
  withPosition d.k d fun n => .ok () { blkSet n v d with k := d.k + 1 }

/-- Refine(coef, bit, al) (44 R232), in the form AC_REFINE_MODE selects. -/
def refine (m : RefineMode) (coef : Coef) (bit : Bool) (al : Nat) : Coef :=
  match m with
  | .add => coef + ((BitVec.ofBool bit).setWidth 32 <<< al)
  | .magnitude =>
    if bit then
      if coef.toInt > 0 then coef + (1#32 <<< al) else coef - (1#32 <<< al)
    else coef

/-- `blk[Z[k]] <- Refine(blk[Z[k]], bit, al)`, then `k <- k + 1` (44 R231). -/
def refineHere (m : RefineMode) (bit : Bool) (d : Decoder) : Res Unit :=
  withPosition d.k d fun n =>
    .ok () { blkSet n (refine m (blkGet n d) bit d.al) d with k := d.k + 1 }

/-- Run a rule on the block being decoded, which the coefficient memory must hold (log 11). -/
def onBlock (rule : Decoder → Res Unit) (d : Decoder) : Res Unit :=
  if blockHere d then rule d else .raise (.stop .noSuchBlock) d

end Sys2Proof.Machine
end

