-- ==== Sys2Proof/Machine/Idct.lean ====
section
/-! DEFINITION. Dequantization and the bit-exact inverse DCT of one block, IDCT8x8 (spec/45_dequant_idct.md R264 to R269). -/

namespace Sys2Proof.Machine

/-- A block in natural order, as eight rows of eight. -/
abbrev Block8 := Eight (Eight Coef)

/-- The output tile: `[y][x]`. -/
abbrev Tile := Eight (Eight Byte)

/-- The eight things f 0 to f 7. -/
def eightOf {α : Type} (f : Nat → α) : Eight α := ⟨f 0, f 1, f 2, f 3, f 4, f 5, f 6, f 7⟩

/-- Change each of the eight. -/
def eightMap {α β : Type} (f : α → β) (e : Eight α) : Eight β :=
  ⟨f e.p0, f e.p1, f e.p2, f e.p3, f e.p4, f e.p5, f e.p6, f e.p7⟩

/-- The eight in order. -/
def eightList {α : Type} (e : Eight α) : List α := [e.p0, e.p1, e.p2, e.p3, e.p4, e.p5, e.p6, e.p7]

/-- Rows and columns exchanged. -/
def transpose {α : Type} (b : Eight (Eight α)) : Eight (Eight α) :=
  ⟨eightMap (·.p0) b, eightMap (·.p1) b, eightMap (·.p2) b, eightMap (·.p3) b,
    eightMap (·.p4) b, eightMap (·.p5) b, eightMap (·.p6) b, eightMap (·.p7) b⟩

/-- The constants of 45 R265. -/
def dctC1 : Coef := 4017#32
def dctS1 : Coef := 799#32
def dctC3 : Coef := 3406#32
def dctS3 : Coef := 2276#32
def dctC6 : Coef := 1567#32
def dctS6 : Coef := 3784#32
def dctSq2 : Coef := 5793#32
def dctSq12 : Coef := 2896#32

/-- `(a + rnd) >> sh`, the arithmetic right shift of the wrapped sum. -/
def roundShift (rnd : Coef) (sh : Nat) (a : Coef) : Coef := (a + rnd).sshiftRight sh

/-- `(a + 1) >> 1`. -/
def half (a : Coef) : Coef := roundShift 1#32 1 a

/-- Where the row and the column pass differ (45 R266, R267). -/
structure PassShape where
  /-- the fast path's rounding and shift -/
  fastRnd : Coef
  fastSh : Nat
  /-- stage 4's and the stage-3 rotation's rounding and shift -/
  rnd : Coef
  sh : Nat
  /-- stage 4's left shift of p3 and p5 -/
  pre : Nat
  deriving DecidableEq, Repr

/-- 45 R266. -/
def rowShape : PassShape := { fastRnd := 512#32, fastSh := 10, rnd := 128#32, sh := 8, pre := 4 }
/-- 45 R267. -/
def colShape : PassShape := { fastRnd := 8192#32, fastSh := 14, rnd := 2048#32, sh := 12, pre := 0 }

/-- The fast path's test: p1 = p2 = ... = p7 = 0. -/
def acAllZero (p : Eight Coef) : Bool :=
  p.p1 == 0#32 && p.p2 == 0#32 && p.p3 == 0#32 && p.p4 == 0#32 && p.p5 == 0#32 && p.p6 == 0#32 && p.p7 == 0#32

/-- Stage 4: v0 to v7 in index order. -/
def stage4 (z : PassShape) (p : Eight Coef) : Eight Coef :=
  { p0 := roundShift z.rnd z.sh (dctSq2 * p.p0)
    p1 := roundShift z.rnd z.sh (dctSq2 * p.p4)
    p2 := p.p2
    p3 := p.p6
    p4 := roundShift z.rnd z.sh (dctSq12 * (p.p1 - p.p7))
    p5 := p.p3 <<< z.pre
    p6 := p.p5 <<< z.pre
    p7 := roundShift z.rnd z.sh (dctSq12 * (p.p1 + p.p7)) }

/-- Stage 3. -/
def stage3 (z : PassShape) (v : Eight Coef) : Eight Coef :=
  { p0 := half (v.p0 + v.p1)
    p1 := half (v.p0 - v.p1)
    p2 := roundShift z.rnd z.sh (v.p2 * dctC6 - v.p3 * dctS6)
    p3 := roundShift z.rnd z.sh (v.p2 * dctS6 + v.p3 * dctC6)
    p4 := half (v.p4 + v.p6)
    p5 := half (v.p7 - v.p5)
    p6 := half (v.p4 - v.p6)
    p7 := half (v.p7 + v.p5) }

/-- Stage 2; its rotations use 2048 and 12 in both passes. -/
def stage2 (v : Eight Coef) : Eight Coef :=
  { p0 := half (v.p0 + v.p3)
    p1 := half (v.p1 + v.p2)
    p2 := half (v.p1 - v.p2)
    p3 := half (v.p0 - v.p3)
    p4 := roundShift 2048#32 12 (v.p4 * dctC3 - v.p7 * dctS3)
    p5 := roundShift 2048#32 12 (v.p5 * dctC1 - v.p6 * dctS1)
    p6 := roundShift 2048#32 12 (v.p5 * dctS1 + v.p6 * dctC1)
    p7 := roundShift 2048#32 12 (v.p4 * dctS3 + v.p7 * dctC3) }

/-- Stage 1. -/
def stage1 (v : Eight Coef) : Eight Coef :=
  { p0 := v.p0 + v.p7
    p1 := v.p1 + v.p6
    p2 := v.p2 + v.p5
    p3 := v.p3 + v.p4
    p4 := v.p3 - v.p4
    p5 := v.p2 - v.p5
    p6 := v.p1 - v.p6
    p7 := v.p0 - v.p7 }

/-- The fast path's value: `(SQ2*p0 + fastRnd) >> fastSh`. -/
def fastValue (z : PassShape) (p0 : Coef) : Coef := roundShift z.fastRnd z.fastSh (dctSq2 * p0)

/-- The 8-point pass of one row or column (45 R266, R267); the fast path is part of it (45 R268). -/
def pass8 (z : PassShape) (p : Eight Coef) : Eight Coef :=
  if acAllZero p then eightOf fun _ => fastValue z p.p0
  else stage1 (stage2 (stage3 z (stage4 z p)))

/-- The row pass over a block, then the column pass over its result. -/
def idct2d (p : Block8) : Block8 :=
  transpose (eightMap (pass8 colShape) (transpose (eightMap (pass8 rowShape) p)))

/-- Level shift and clamp (45 R269). -/
def levelShift (p : Coef) : Byte :=
  let s : Int := 128 + ((p + 8#32).sshiftRight 4).toInt
  if s < 0 then 0#8 else if 255 < s then 255#8 else BitVec.ofInt 8 s

/-- Dequantization (45 R264): int32 products, both operands in natural order. -/
def dequantize (blk : Nat → Coef) (q : QTable) : Block8 :=
  eightOf fun y => eightOf fun x => blk (8 * y + x) * (q[8 * y + x]?.getD 0#16).setWidth 32

/-- IDCT8x8(blk, q) (45 R269), the default of the parameter. -/
def idct8x8 (blk : Nat → Coef) (q : QTable) : Tile :=
  eightMap (eightMap levelShift) (idct2d (dequantize blk q))

/-- The parameter IDCT8x8 (00 R8) applied to a block (45 R269; log 7). -/
def inverseTransform (kind : IdctKind) (blk : Nat → Coef) (q : QTable) : Tile :=
  match kind with
  | .standard => idct8x8 blk q
  | .other i => Config.otherIdct i (eightOf fun y => eightOf fun x => blk (8 * y + x)) q

end Sys2Proof.Machine
end

