-- ==== Sys2Proof/Machine/Build.lean ====
section
/-! DEFINITION. BUILD_COMPONENTS: every component's blocks become sample lines (spec/45_dequant_idct.md R270, R271). -/

namespace Sys2Proof.Machine

/-- The tile of block (row, col). -/
def tileOf (kind : IdctKind) (c : Comp) (q : QTable) (row col : Nat) : Tile :=
  inverseTransform kind (c.coef row col) q

/-- The eight lines of a block row: the tiles' lines side by side, col from 0 to bpl − 1. -/
def rowLines (tiles : List Tile) : List (List Byte) :=
  [tiles.flatMap fun t => eightList t.p0, tiles.flatMap fun t => eightList t.p1,
    tiles.flatMap fun t => eightList t.p2, tiles.flatMap fun t => eightList t.p3,
    tiles.flatMap fun t => eightList t.p4, tiles.flatMap fun t => eightList t.p5,
    tiles.flatMap fun t => eightList t.p6, tiles.flatMap fun t => eightList t.p7]

/-- The lines of a component: block rows 0 to bpc − 1, each of blocks 0 to bpl − 1 (45 R271). -/
def compLines (kind : IdctKind) (c : Comp) (q : QTable) : Plane :=
  (List.range c.bpc).flatMap fun row =>
    rowLines ((List.range c.bpl).map fun col => tileOf kind c q row col)

/-- The lines of all components, or nothing where a component's quantization table is absent. -/
def buildPlanes (kind : IdctKind) (qt : Store QTable) : List Comp → Option (List Plane)
  | [] => some []
  | c :: rest =>
    match storeGet c.tq qt with
    | none => none
    | some q =>
      match buildPlanes kind qt rest with
      | none => none
      | some planes => some (compLines kind c q :: planes)

/-- BUILD_COMPONENTS (45 R270). -/
def buildComponents (s : State) : Except CommandError State :=
  match s.dec.frame with
  | none => .error { code := .sequence, pos := s.streamPos }
  | some f =>
    if s.built then .error { code := .sequence, pos := s.streamPos }
    else
      match buildPlanes s.params.idct s.qt f.comps with
      | none => .error { code := .qtMissing, pos := s.streamPos }
      | some planes => .ok { s with lines := some planes }

/-- BUILD_COMPONENTS (45 R270). -/
def execBuildComponents (s : State) : Result := endCommand s (buildComponents s)

end Sys2Proof.Machine
end

