-- ==== Sys2Proof/Machine/ColorConvert.lean ====
section
/-! DEFINITION. COLOR_CONVERT: the checks, sampling, the conversions and the pixel events, and the rows of the colour-dispatch selector (spec/46_color.md R290 to R302, spec/30_encoding.md R99). -/

namespace Sys2Proof.Machine

/-- A sample index (46 R295) in the arithmetic COLOR_ARITH names (00 R8). DESIGN CHOICE (log 7): of another
arithmetic than the exact one only this is assumed, that its index stays below `bound`, the size of the lines. -/
def sampleIndex (arith : ColorArith) (coord size factor outSize maxFactor bound : Nat) : Nat :=
  match arith with
  | .exact => coord * size * factor / (outSize * maxFactor)
  | .other i => min (Config.otherIndex i coord size factor outSize maxFactor) (bound - 1)

/-- Sample(i, x, y) (46 R295), with the getLine clamp: nothing where the index lies outside the lines. -/
def sample (arith : ColorArith) (f : Frame) (planes : List Plane) (ow oh x y i : Nat) : Option Byte :=
  match f.comps[i]?, planes[i]? with
  | some c, some plane =>
    let ix := sampleIndex arith x f.samplesPerLine c.h ow f.maxH (8 * c.bpl)
    let iy := min (sampleIndex arith y f.scanLines c.v oh f.maxV (8 * c.bpc)) (8 * c.bpc - 1)
    match plane[iy]? with
    | some row => row[ix]?
    | none => none
  | _, _ => none

/-- clamp8 of the exact rational num / 10^6 (46 R296): the constants have six decimals at most. -/
def clamp8 (num : Int) : Byte :=
  if num < 0 then 0#8
  else if 255 * 1000000 < num then 255#8
  else BitVec.ofInt 8 (num / 1000000)

/-- YCbCr to RGB (46 R300), the constants 1.402, 0.344136, 0.714136 and 1.772 as exact decimals. -/
def yccToRgbExact (luma cb cr : Byte) : Byte × Byte × Byte :=
  let y : Int := 1000000 * (luma.toNat : Int)
  let b : Int := (cb.toNat : Int) - 128
  let r : Int := (cr.toNat : Int) - 128
  (clamp8 (y + 1402000 * r), clamp8 (y - 344136 * b - 714136 * r), clamp8 (y + 1772000 * b))

/-- YCbCr to RGB (46 R300) in the arithmetic COLOR_ARITH names (00 R8; log 7). -/
def yccToRgb (arith : ColorArith) (luma cb cr : Byte) : Byte × Byte × Byte :=
  match arith with
  | .exact => yccToRgbExact luma cb cr
  | .other i => Config.otherYccToRgb i luma cb cr

/-- floor(a · k / 255) (46 R301): the floor is the rule's own (92 D34), whatever COLOR_ARITH is
(DEDUCED, log 21). -/
def scaleByK (a k : Byte) : Byte := BitVec.ofNat 8 (a.toNat * k.toNat / 255)

/-- CMYK to RGB (46 R301). -/
def cmykToRgb (c m y k : Byte) : Byte × Byte × Byte := (scaleByK c k, scaleByK m k, scaleByK y k)

/-- YCCK to RGB (46 R302). -/
def ycckToRgb (arith : ColorArith) (luma cb cr k : Byte) : Byte × Byte × Byte :=
  let rgb := yccToRgb arith luma cb cr
  cmykToRgb (255#8 - rgb.1) (255#8 - rgb.2.1) (255#8 - rgb.2.2) k

/-- The conversions of the dispatch table (30 R99). -/
inductive Conversion where
  | grayYcc
  | grayRgb
  | dual
  | yccPass
  | yccRgb
  | cmykRgb
  | ycckRgb
  deriving DecidableEq, Repr

/-- An RGB event. -/
def rgbEvent (x y : Nat) (rgb : Byte × Byte × Byte) : Event :=
  .rgb (BitVec.ofNat 16 x) (BitVec.ofNat 16 y) rgb.1 rgb.2.1 rgb.2.2

/-- A YCC event. -/
def yccEvent (x y : Nat) (luma cb cr : Byte) : Event :=
  .ycc (BitVec.ofNat 16 x) (BitVec.ofNat 16 y) luma cb cr

/-- The pixel event of a conversion (46 R297 to R302) from the samples `v 0`, `v 1`, ... of one pixel. -/
def pixelEvent (arith : ColorArith) (cv : Conversion) (x y : Nat) (v : Nat → Option Byte) : Option Event :=
  match cv with
  | .grayYcc =>
    match v 0 with
    | some a => some (yccEvent x y a 0#8 0#8)
    | none => none
  | .grayRgb =>
    match v 0 with
    | some a => some (rgbEvent x y (a, a, a))
    | none => none
  | .dual =>
    match v 0, v 1 with
    | some a, some b => some (.s2 (BitVec.ofNat 16 x) (BitVec.ofNat 16 y) a b)
    | _, _ => none
  | .yccPass =>
    match v 0, v 1, v 2 with
    | some a, some b, some c => some (yccEvent x y a b c)
    | _, _, _ => none
  | .yccRgb =>
    match v 0, v 1, v 2 with
    | some a, some b, some c => some (rgbEvent x y (yccToRgb arith a b c))
    | _, _, _ => none
  | .cmykRgb =>
    match v 0, v 1, v 2, v 3 with
    | some a, some b, some c, some k => some (rgbEvent x y (cmykToRgb a b c k))
    | _, _, _, _ => none
  | .ycckRgb =>
    match v 0, v 1, v 2, v 3 with
    | some a, some b, some c, some k => some (rgbEvent x y (ycckToRgb arith a b c k))
    | _, _, _, _ => none

/-- The conversion the dispatch table lists for (NCOMP, source, OUT_CS); nothing for COLOR_MODE (30 R99). -/
def conversionOf (ncomp : Nat) (src out : BitVec 2) : Option Conversion :=
  if 1#2 < out then none
  else
    match ncomp with
    | 1 => if src = 1#2 then none else if out = 0#2 then some .grayYcc else some .grayRgb
    | 2 => if src = 1#2 then none else some .dual
    | 3 => if src = 0#2 then (if out = 0#2 then some .yccPass else some .yccRgb) else none
    | 4 => if src = 2#2 then some .cmykRgb else if src = 3#2 then some .ycckRgb else none
    | _ => none

/-- The pixels of the output in row-major order (46 R294). -/
def pixelOrder (ow oh : Nat) : List (Nat × Nat) :=
  (List.range oh).flatMap fun y => (List.range ow).map fun x => (x, y)

/-- The values of a list of options, or nothing where one is absent. -/
def collect {α : Type} : List (Option α) → Option (List α)
  | [] => some []
  | none :: _ => none
  | some a :: rest =>
    match collect rest with
    | some more => some (a :: more)
    | none => none

/-- All pixel events of an image (46 R290, R294). -/
def pixelEvents (arith : ColorArith) (cv : Conversion) (f : Frame) (planes : List Plane) (ow oh : Nat) :
    Option (List Event) :=
  collect ((pixelOrder ow oh).map fun p => pixelEvent arith cv p.1 p.2 (sample arith f planes ow oh p.1 p.2))

/-- CheckColor(src) (46 R291), check by check. -/
def colorRejected (s : State) (ncomp : Nat) (src : BitVec 2) : Bool :=
  (1#2 < outCs s) || (adobePresent s && adobeCs s == 1#2) || (ncomp == 3 && src != 0#2) ||
    (ncomp == 4 && src != 2#2 && src != 3#2)

/-- COLOR_CONVERT's ALLOC event and pixel events on a built frame (46 R290, R293). -/
def emitImage (s : State) (f : Frame) (planes : List Plane) (cv : Conversion) : Result :=
  match pixelEvents s.params.colorArith cv f planes (outW s) (outH s) with
  | none => .fault .noSuchSample
  | some events =>
    let alloc := Event.alloc (BitVec.ofNat 16 (outW s)) (BitVec.ofNat 16 (outH s)) (srcCs s) f.comps.length
    .next (finish { s with sink := s.sink ++ alloc :: events })

/-- COLOR_CONVERT (46 R290). -/
def execColorConvert (s : State) : Result :=
  match s.dec.frame, s.lines with
  | some f, some planes =>
    if colorRejected s f.comps.length (srcCs s) then fatalEnd .colorMode s.streamPos s
    else
      match conversionOf f.comps.length (srcCs s) (outCs s) with
      | none => fatalEnd .colorMode s.streamPos s
      | some cv => emitImage s f planes cv
  | _, _ => fatalEnd .sequence s.streamPos s

/-! The rows of the selector, each run by itself: the event of the pixel that State names, then the
next pixel of 46 R294's order (log 3, log 4, log 10). -/

/-- The pixel after (x, y) in row-major order. -/
def nextPixel (ow x y : Nat) : Nat × Nat := if x + 1 < ow then (x + 1, y) else (0, y + 1)

/-- Emit the event of pixel (px, py). DESIGN CHOICE (log 22): a row run by itself checks the frame and the lines
only, so it emits its event where COLOR_CONVERT would emit none, because CheckColor (46 R291) refuses the state, the
row is not the selected one, or no such pixel exists; an output size of 0 gives the sample index 0. -/
def emitPixel (cv : Conversion) (s : State) : Result :=
  match s.dec.frame, s.lines with
  | some f, some planes =>
    match pixelEvent s.params.colorArith cv s.px s.py
      (sample s.params.colorArith f planes (outW s) (outH s) s.px s.py) with
    | none => .fault .noSuchSample
    | some e =>
      let p := nextPixel (outW s) s.px s.py
      .next { s with sink := s.sink ++ [e], px := p.1, py := p.2 }
  | _, _ => fatalEnd .sequence s.streamPos s

/-- COLOR_1C_YCbCr_OUTYCbCr (46 R297). -/
def execColor1cYCbCrOutYCbCr (s : State) : Result := emitPixel .grayYcc s
/-- COLOR_1C_YCbCr_OUTRGB (46 R297). -/
def execColor1cYCbCrOutRgb (s : State) : Result := emitPixel .grayRgb s
/-- COLOR_1C_CMYK_OUTYCbCr (46 R297). -/
def execColor1cCmykOutYCbCr (s : State) : Result := emitPixel .grayYcc s
/-- COLOR_1C_CMYK_OUTRGB (46 R297). -/
def execColor1cCmykOutRgb (s : State) : Result := emitPixel .grayRgb s
/-- COLOR_1C_YCCK_OUTYCbCr (46 R297). -/
def execColor1cYcckOutYCbCr (s : State) : Result := emitPixel .grayYcc s
/-- COLOR_1C_YCCK_OUTRGB (46 R297). -/
def execColor1cYcckOutRgb (s : State) : Result := emitPixel .grayRgb s
/-- COLOR_2C_YCbCr_OUTYCbCr (46 R298). -/
def execColor2cYCbCrOutYCbCr (s : State) : Result := emitPixel .dual s
/-- COLOR_2C_YCbCr_OUTRGB (46 R298). -/
def execColor2cYCbCrOutRgb (s : State) : Result := emitPixel .dual s
/-- COLOR_2C_CMYK_OUTYCbCr (46 R298). -/
def execColor2cCmykOutYCbCr (s : State) : Result := emitPixel .dual s
/-- COLOR_2C_CMYK_OUTRGB (46 R298). -/
def execColor2cCmykOutRgb (s : State) : Result := emitPixel .dual s
/-- COLOR_2C_YCCK_OUTYCbCr (46 R298). -/
def execColor2cYcckOutYCbCr (s : State) : Result := emitPixel .dual s
/-- COLOR_2C_YCCK_OUTRGB (46 R298). -/
def execColor2cYcckOutRgb (s : State) : Result := emitPixel .dual s
/-- COLOR_3C_YCbCr_OUTYCbCr (46 R299). -/
def execColor3cYCbCrOutYCbCr (s : State) : Result := emitPixel .yccPass s
/-- COLOR_3C_YCbCr_OUTRGB (46 R300). -/
def execColor3cYCbCrOutRgb (s : State) : Result := emitPixel .yccRgb s
/-- COLOR_4C_CMYK_OUTYCbCr (46 R301): RGB whatever OUT_CS is. -/
def execColor4cCmykOutYCbCr (s : State) : Result := emitPixel .cmykRgb s
/-- COLOR_4C_CMYK_OUTRGB (46 R301). -/
def execColor4cCmykOutRgb (s : State) : Result := emitPixel .cmykRgb s
/-- COLOR_4C_YCCK_OUTYCbCr (46 R302): RGB whatever OUT_CS is. -/
def execColor4cYcckOutYCbCr (s : State) : Result := emitPixel .ycckRgb s
/-- COLOR_4C_YCCK_OUTRGB (46 R302). -/
def execColor4cYcckOutRgb (s : State) : Result := emitPixel .ycckRgb s
/-- COLOR_MODE (30 R99, 46 R291). DESIGN CHOICE (logs 3 and 10): run by itself it raises COLOR_MODE in every state,
with no frame or no lines too. -/
def execColorModeOther (_ncomp : BitVec 3) (_src _out : BitVec 2) (s : State) : Result :=
  fatalEnd .colorMode s.streamPos s

end Sys2Proof.Machine
end

