-- ==== Sys2Proof/Machine/Command.lean ====
section
/-! DEFINITION. The commands that touch no stream data: NOP, CLEAR and the illegal command words (spec/40_command_interface.md). -/

namespace Sys2Proof.Machine

/-- NOP (40 R123): nothing, then the end of the step. -/
def execNop (s : State) : Result := .next (finish s)

/-- CLEAR (40 R124). -/
def execClear (s : State) : Result := .next (finish (clearState s))

/-- ILLEGAL_CMD, OPCODE 0x08 to 0x0F (40 R128; 30 R84). -/
def execIllegalCmdLow (_opcode : Byte) (s : State) : Result := fatalEnd .illegalCmd s.streamPos s

/-- ILLEGAL_CMD, OPCODE 0x10 to 0xFF or MBZ ≠ 0 (40 R128; 30 R84). -/
def execIllegalCmdOther (_w : Word) (s : State) : Result := fatalEnd .illegalCmd s.streamPos s

end Sys2Proof.Machine
end

