-- ==== Sys2Proof/Machine/FrameSetup.lean ====
section
/-! DEFINITION. SET_FRAME: the checks, the geometry and the latched frame (spec/43_frame_geometry.md R190 to R200). -/

namespace Sys2Proof.Machine

/-- ceil(a / b) for naturals, b ≥ 1 (00 R11). -/
def ceilDiv (a b : Nat) : Nat := (a + b - 1) / b

/-- The largest of a list of naturals, 0 for none. -/
def maxOf : List Nat → Nat
  | [] => 0
  | n :: ns => max n (maxOf ns)

/-- The component record SET_FRAME makes from COMP_CFGi (43 R190, R194, R195, R197): the block counts,
every coefficient 0, and a predictor no rule reads before a scan resets it (log 9). -/
def mkComp (samplesPerLine scanLines maxH maxV : Nat) (w : Word) : Comp :=
  let h := compH w
  let v := compV w
  { cid := compCid w, h := h, v := v, tq := compTq w
    bpl := ceilDiv (ceilDiv samplesPerLine 8 * h) maxH
    bpc := ceilDiv (ceilDiv scanLines 8 * v) maxV
    bplm := ceilDiv samplesPerLine (8 * maxH) * h
    bpcm := ceilDiv scanLines (8 * maxV) * v
    pred := 0#32, coefs := [] }

/-- The frame record SET_FRAME latches (43 R190, R192, R193, R198). -/
def mkFrame (s : State) : Frame :=
  let cfgs := frameCompCfgs s
  let maxH := maxOf (cfgs.map compH)
  let maxV := maxOf (cfgs.map compV)
  let x := cfgSamplesPerLine s
  let y := cfgScanLines s
  { progressive := cfgProgressive s, precision := cfgPrecision s
    samplesPerLine := x, scanLines := y
    comps := cfgs.map (mkComp x y maxH maxV)
    maxH := maxH, maxV := maxV
    maxCid := BitVec.ofNat 8 (maxOf (cfgs.map fun w => (compCid w).toNat))
    mcusPerLine := ceilDiv x (8 * maxH), mcusPerColumn := ceilDiv y (8 * maxV) }

/-- The total number of MCU-padded blocks of a frame (43 R191, check 6). -/
def totalBlocks (f : Frame) : Nat := (f.comps.map fun c => c.bplm * c.bpcm).sum

/-- A sampling factor is 1 to 4. -/
def factorLegal (n : Nat) : Bool := (1 ≤ n) && (n ≤ 4)

/-- SET_FRAME's checks in order (43 R191): the first that fails, if any. -/
def checkFrame (s : State) : Option ErrCode :=
  let cfgs := frameCompCfgs s
  if s.dec.frame.isSome then some .sequence
  else if cfgNcomp s = 0 ∨ 4 < cfgNcomp s then some .frameParam
  else if cfgSamplesPerLine s = 0 ∨ cfgScanLines s = 0 then some .frameParam
  else if cfgs.any fun w => !(factorLegal (compH w) && factorLegal (compV w)) then some .frameParam
  else if ¬ (cfgs.map compCid).Nodup then some .frameParam
  else if (s.params.maxBlocks : Nat) < totalBlocks (mkFrame s) then some .frameTooLarge
  else none

/-- SET_FRAME (43 R190). -/
def setFrame (s : State) : Except CommandError State :=
  match checkFrame s with
  | some c => .error { code := c, pos := s.streamPos }
  | none => .ok { s with dec := { s.dec with frame := some (mkFrame s) } }

/-- SET_FRAME (43 R190). -/
def execSetFrame (s : State) : Result := endCommand s (setFrame s)

end Sys2Proof.Machine
end

