-- ==== Sys2Proof/Machine/HuffTables.lean ====
section
/-! DEFINITION. Building a canonical Huffman table, LOAD_DHT and the rows of its TcTh byte (spec/42_huffman.md R161 to R165, spec/30_encoding.md R89). -/

namespace Sys2Proof.Machine

/-- Give `count` codes of length `len` to the next values, from `code` up (42 R162): the new entries, the
next code and the values left, or nothing where a code does not fit (42 R163). -/
def assignCodes (len : Nat) : Nat → Nat → List Byte → Option (List HuffEntry × Nat × List Byte)
  | 0, code, vals => some ([], code, vals)
  | _ + 1, _, [] => none
  | n + 1, code, v :: vals =>
    if 2 ^ len ≤ code then none
    else
      match assignCodes len n (code + 1) vals with
      | none => none
      | some (entries, code', vals') => some ({ len := len, code := code, sym := v } :: entries, code', vals')

/-- The lengths from `len` up, one count each (42 R162): the code doubles from one length to the next. -/
def assignLengths : Nat → List Nat → Nat → List Byte → Option HuffTable
  | _, [], _, _ => some []
  | len, n :: counts, code, vals =>
    match assignCodes len n code vals with
    | none => none
    | some (entries, code', vals') =>
      match assignLengths (len + 1) counts (2 * code') vals' with
      | none => none
      | some more => some (entries ++ more)

/-- BuildCanonical(L, V) (42 R162); nothing for over-subscribed counts (42 R163). -/
def buildCanonical (counts : List Nat) (vals : List Byte) : Option HuffTable :=
  assignLengths 1 counts 0 vals

/-- LOAD_DHT after its TcTh byte, which stands at STREAM_POS (42 R161): read 16 counts, check N, read
N values, build the table, replace the slot, move STREAM_POS to the next group. DESIGN CHOICE (log 25): a row run by
itself takes its byte as read, whether or not it or any byte stands at STREAM_POS; LOAD_DHT fetches it first. -/
def dhtGroup (ac : Bool) (th : BitVec 2) (s : State) : Except CommandError State :=
  let start := s.streamPos.toNat + 1
  match readBytes s 16 start with
  | .error p => .error (missingByte p)
  | .ok countBytes =>
    let counts := countBytes.map BitVec.toNat
    let n := counts.sum
    if s.params.htMaxSymbols < n then
      .error { code := .htInvalid, pos := BitVec.ofNat 32 (start + 16) }
    else
      match readBytes s n (start + 16) with
      | .error p => .error (missingByte p)
      | .ok vals =>
        match buildCanonical counts vals with
        | none => .error { code := .htInvalid, pos := BitVec.ofNat 32 (start + 16 + n) }
        | some table =>
          let t := { s with streamPos := BitVec.ofNat 32 (start + 16 + n) }
          .ok (if ac then { t with acTab := storePut th.toNat table s.acTab }
            else { t with dcTab := storePut th.toNat table s.dcTab })

/-- DHT_GROUP_DC (30 R89). -/
def execDhtGroupDc (th : BitVec 2) (s : State) : Result := endCommand s (dhtGroup false th s)

/-- DHT_GROUP_AC (30 R89). -/
def execDhtGroupAc (th : BitVec 2) (s : State) : Result := endCommand s (dhtGroup true th s)

/-- DHT_RESERVED: Tc > 1 or Th > 3 (30 R101, 42 R161); ERR_POS is the address of the TcTh byte, which a row run by
itself takes as read (DESIGN CHOICE, log 25). -/
def execDhtReserved (_tc _th : BitVec 4) (s : State) : Result := fatalEnd .htClass s.streamPos s

/-- The meaning of a TcTh byte (42 R161). -/
def dhtByte (b : Byte) (s : State) : Result :=
  let tc : BitVec 4 := bitsAt b 4 4
  let th : BitVec 4 := bitsAt b 0 4
  if 1#4 < tc ∨ 3#4 < th then execDhtReserved tc th s
  else if tc = 0#4 then execDhtGroupDc (th.setWidth 2) s
  else execDhtGroupAc (th.setWidth 2) s

/-- LOAD_DHT (42 R161): fetch the TcTh byte at STREAM_POS and load the group. -/
def execLoadDht (s : State) : Result :=
  match s.streamByte s.streamPos.toNat with
  | none => endCommand s (.error (missingByte s.streamPos.toNat))
  | some b => dhtByte b s

end Sys2Proof.Machine
end

