-- ==== Sys2Proof/Machine/Symbols.lean ====
section
/-! DEFINITION. What a DC symbol, an AC symbol and a raw refinement bit do, and their rows of the opcode table (spec/30_encoding.md R91 to R94; spec/44_scan_decoder.md R227 to R232). -/

namespace Sys2Proof.Machine

/-- The three readings of an AC symbol (30 R92, R93). -/
inductive AcKind where
  | baseline
  | first
  | succ
  deriving DecidableEq, Repr

/-- The last zigzag position of the block or band. -/
def acLimit (a : AcKind) (d : Decoder) : Nat :=
  match a with
  | .baseline => 63
  | .first => d.se
  | .succ => d.se

/-- A DC category t of 0 to 15 (44 R227, R228): the difference, shifted left by `sh`, is added to the
component's predictor, and blk[0] takes the predictor. -/
def dcCategory (src : Nat → Option Byte) (sh t : Nat) (d : Decoder) : Res Unit :=
  (receiveExtend src t d).andThen fun v d' =>
    let p := curPred d' + (v <<< sh)
    .ok () (blkSet 0 p (setCurPred p d'))

/-- A DC category above 15 (30 R91). -/
def dcBadCategory (d : Decoder) : Res Unit := .raise (.abort .badDcCategory) d

/-- A decoded DC symbol (44 R227, R228). -/
def dcSymbol (src : Nat → Option Byte) (sh : Nat) (t : Byte) (d : Decoder) : Res Unit :=
  if 15 < t.toNat then dcBadCategory d else dcCategory src sh t.toNat d

/-- s = 0, r < 15 (30 R92): EOB in BASELINE; EOBr in AC_FIRST (44 R230) and AC_SUCC (44 R231). The end
of the block or band is `k` beyond its last position (log 4). -/
def acEob (src : Nat → Option Byte) (a : AcKind) (r : Nat) (d : Decoder) : Res Unit :=
  match a with
  | .baseline => .ok () { d with k := acLimit a d + 1 }
  | .first =>
    (receive src r d).andThen fun v d' =>
      .ok () { d' with eobrun := v + 2 ^ r - 1, k := acLimit a d + 1 }
  | .succ =>
    (receive src r { d with r := r }).andThen fun v d' =>
      .ok () { d' with eobrun := v + 2 ^ r, acState := .eobRun }

/-- s = 0, r = 15 (30 R92): ZRL. In AC_SUCC it enters state 1 with r = 16 (44 R231). -/
def acRun16 (a : AcKind) (d : Decoder) : Res Unit :=
  match a with
  | .baseline => .ok () { d with k := d.k + 16 }
  | .first => .ok () { d with k := d.k + 16 }
  | .succ => .ok () { d with r := 16, acState := .skipZrl }

/-- s ≠ 0: skip r positions and place the value, which AC_FIRST scales by 2^al (44 R227, R230). -/
def acPlace (src : Nat → Option Byte) (limit sh r sz : Nat) (d : Decoder) : Res Unit :=
  let d := { d with k := d.k + r }
  if limit < d.k then .raise (.abort .coefRange) d
  else (receiveExtend src sz d).andThen fun v d' => placeAt (v <<< sh) d'

/-- s ≠ 0 in AC_SUCC (44 R231): the pending value, and the run of zeros before it. -/
def acPend (src : Nat → Option Byte) (r sz : Nat) (d : Decoder) : Res Unit :=
  if sz ≠ 1 then .raise (.abort .badRefineSize) { d with r := r }
  else
    (receiveExtend src 1 { d with r := r }).andThen fun v d' =>
      .ok () { d' with acNext := v, acState := if r = 0 then .setValue else .skipRun }

/-- s ≠ 0 (30 R92, R93). -/
def acRunSize (src : Nat → Option Byte) (a : AcKind) (r sz : Nat) (d : Decoder) : Res Unit :=
  match a with
  | .baseline => acPlace src (acLimit a d) 0 r sz d
  | .first => acPlace src (acLimit a d) d.al r sz d
  | .succ => acPend src r sz d

/-- A decoded AC symbol: r is the high nibble, s the low one (30 R92). -/
def acSymbol (src : Nat → Option Byte) (a : AcKind) (rs : Byte) (d : Decoder) : Res Unit :=
  let r := fieldNat rs 4 4
  let sz := fieldNat rs 0 4
  if sz = 0 then
    if r < 15 then acEob src a r d else acRun16 a d
  else acRunSize src a r sz d

/-- DC_SUCC's bit: `blk[0] <- blk[0] | (b << al)` (44 R229). -/
def dcRefineBit (b : Bool) (d : Decoder) : Decoder :=
  blkSet 0 (blkGet 0 d ||| ((BitVec.ofBool b).setWidth 32 <<< d.al)) d

/-! The rows of the opcode table, each run by itself on the block that State names (log 3, log 10). -/

/-- Run one rule of a scan by itself: it needs a frame that is not built yet (44 R211, check 1; log 10). -/
def runRule (s : State) (rule : Decoder → Res Unit) : Result :=
  if s.frameValid && !s.built then
    match rule s.dec with
    | .ok _ d => .next { s with dec := d }
    | .raise e d => endScanBy s e d
  else fatalEnd .sequence s.streamPos s

/-- Run a DC symbol's rule in the scan's mode: the shift is AL in DC_FIRST and 0 in BASELINE. -/
def runDc (s : State) (rule : Nat → Decoder → Res Unit) : Result :=
  runRule s fun d =>
    match d.mode with
    | some .baseline => onBlock (rule 0) d
    | some .dcFirst => onBlock (rule d.al) d
    | some .dcSucc => .raise (.refuse .symbolOutsideItsMode) d
    | some .acFirst => .raise (.refuse .symbolOutsideItsMode) d
    | some .acSucc => .raise (.refuse .symbolOutsideItsMode) d
    | none => .raise (.refuse .symbolOutsideItsMode) d

/-- Run an AC symbol's rule in the scan's mode. -/
def runAc (s : State) (rule : AcKind → Decoder → Res Unit) : Result :=
  runRule s fun d =>
    match d.mode with
    | some .baseline => onBlock (rule .baseline) d
    | some .acFirst => onBlock (rule .first) d
    | some .acSucc => onBlock (rule .succ) d
    | some .dcFirst => .raise (.refuse .symbolOutsideItsMode) d
    | some .dcSucc => .raise (.refuse .symbolOutsideItsMode) d
    | none => .raise (.refuse .symbolOutsideItsMode) d

/-- DC_DIFF (30 R91). -/
def execDcDiff (t : BitVec 4) (s : State) : Result :=
  runDc s fun sh => dcCategory s.streamByte sh t.toNat

/-- DC_RESERVED, category 16 to 31 (30 R91): the scan aborts with BAD_DC_CATEGORY. -/
def execDcReserved16 (_t : Byte) (s : State) : Result := runDc s fun _ => dcBadCategory

/-- DC_RESERVED, category 32 to 63. -/
def execDcReserved32 (_t : Byte) (s : State) : Result := runDc s fun _ => dcBadCategory

/-- DC_RESERVED, category 64 to 127. -/
def execDcReserved64 (_t : Byte) (s : State) : Result := runDc s fun _ => dcBadCategory

/-- DC_RESERVED, category 128 to 255. -/
def execDcReserved128 (_t : Byte) (s : State) : Result := runDc s fun _ => dcBadCategory

/-- AC_ZRL (30 R92). -/
def execAcZrl (s : State) : Result := runAc s acRun16

/-- AC_EOB and AC_EOBr, r 0 to 7 (30 R92). -/
def execAcEob0 (r : BitVec 4) (s : State) : Result := runAc s fun a => acEob s.streamByte a r.toNat

/-- AC_EOB and AC_EOBr, r 8 to 11. -/
def execAcEob8 (r : BitVec 4) (s : State) : Result := runAc s fun a => acEob s.streamByte a r.toNat

/-- AC_EOB and AC_EOBr, r 12 to 13. -/
def execAcEob12 (r : BitVec 4) (s : State) : Result := runAc s fun a => acEob s.streamByte a r.toNat

/-- AC_EOB and AC_EOBr, r 14. -/
def execAcEob14 (s : State) : Result := runAc s fun a => acEob s.streamByte a 14

/-- AC_RUN_SIZE, s 1 (30 R92; the only size AC_SUCC allows, 30 R93). -/
def execAcRunSize1 (r : BitVec 4) (s : State) : Result :=
  runAc s fun a => acRunSize s.streamByte a r.toNat 1

/-- AC_RUN_SIZE, s 2 to 3. -/
def execAcRunSize2 (r sz : BitVec 4) (s : State) : Result :=
  runAc s fun a => acRunSize s.streamByte a r.toNat sz.toNat

/-- AC_RUN_SIZE, s 4 to 7. -/
def execAcRunSize4 (r sz : BitVec 4) (s : State) : Result :=
  runAc s fun a => acRunSize s.streamByte a r.toNat sz.toNat

/-- AC_RUN_SIZE, s 8 to 15. -/
def execAcRunSize8 (r sz : BitVec 4) (s : State) : Result :=
  runAc s fun a => acRunSize s.streamByte a r.toNat sz.toNat

/-- DC_SUCC_BIT (30 R94, 44 R229). -/
def execDcSuccBit (b : Bool) (s : State) : Result :=
  runRule s (onBlock fun d => .ok () (dcRefineBit b d))

/-- AC_SUCC_CORRECTION_BIT (30 R93, 44 R231, R232): refine the coefficient at position k and pass it. -/
def execAcSuccCorrectionBit (b : Bool) (s : State) : Result :=
  runRule s (onBlock (refineHere s.params.refineMode b))

end Sys2Proof.Machine
end

