-- ==== Sys2Proof/Machine/Routines.lean ====
section
/-! DEFINITION. The five block-decode routines (spec/44_scan_decoder.md R227 to R233) and the rows of the scan-mode selector. -/

namespace Sys2Proof.Machine

/-- A table the mode needs. The checks of 44 R211 see to it in a scan; a routine run by itself with no
table bound takes their error SCAN_PARAM (log 10). -/
def withTable (t : Option HuffTable) (d : Decoder) (f : HuffTable → Res Unit) : Res Unit :=
  match t with
  | some table => f table
  | none => .raise (.check .scanParam) d

/-- The bound DC table of the block's scan component. -/
def curDc (d : Decoder) : Option HuffTable :=
  match curScanComp d with
  | some sc => sc.dc
  | none => none

/-- The bound AC table of the block's scan component. -/
def curAc (d : Decoder) : Option HuffTable :=
  match curScanComp d with
  | some sc => sc.ac
  | none => none

/-- The loop of BASELINE and AC_FIRST, `while k <= limit` (44 R227, R230). Every pass moves k on by at
least one, so a fuel of 64 is enough for k from 1. -/
def acLoop (src : Nat → Option Byte) (a : AcKind) (ac : HuffTable) : Nat → Decoder → Res Unit
  | 0, d => .ok () d
  | fuel + 1, d =>
    if acLimit a d < d.k then .ok () d
    else
      (decodeHuffman src ac d).andThen fun rs d' =>
        (acSymbol src a rs d').andThen fun _ d'' => acLoop src a ac fuel d''

/-- BASELINE (44 R227). -/
def baselineBlock (src : Nat → Option Byte) (d : Decoder) : Res Unit :=
  withTable (curDc d) d fun dc =>
    withTable (curAc d) d fun ac =>
      (decodeHuffman src dc d).andThen fun t d' =>
        (dcSymbol src 0 t d').andThen fun _ d'' =>
          acLoop src .baseline ac 64 { d'' with k := 1 }

/-- DC_FIRST (44 R228). -/
def dcFirstBlock (src : Nat → Option Byte) (d : Decoder) : Res Unit :=
  withTable (curDc d) d fun dc =>
    (decodeHuffman src dc d).andThen fun t d' => dcSymbol src d'.al t d'

/-- DC_SUCC (44 R229): one raw bit, no table. -/
def dcSuccBlock (src : Nat → Option Byte) (d : Decoder) : Res Unit :=
  (readBit src d).andThen fun b d' => .ok () (dcRefineBit b d')

/-- AC_FIRST (44 R230). -/
def acFirstBlock (src : Nat → Option Byte) (d : Decoder) : Res Unit :=
  withTable (curAc d) d fun ac =>
    if 0 < d.eobrun then .ok () { d with eobrun := d.eobrun - 1 }
    else acLoop src .first ac 64 { d with k := d.ss }

/-- The automaton's states 1 to 4 at position k (44 R231): a nonzero coefficient takes a correction bit;
a zero one counts a run down, takes the pending value, or is passed. State 0 reads a symbol first. DESIGN CHOICE
(log 24): `r - 1` is a natural, so a run of 0, which no scan meets, ends at its first zero. -/
def acVisit (m : RefineMode) (src : Nat → Option Byte) (d : Decoder) : Res Unit :=
  withPosition d.k d fun n =>
    if blkGet n d ≠ 0#32 then
      (readBit src d).andThen fun b d' => refineHere m b d'
    else
      match d.acState with
      | .skipZrl =>
        .ok () { d with r := d.r - 1, k := d.k + 1, acState := if d.r - 1 = 0 then .initial else .skipZrl }
      | .skipRun =>
        .ok () { d with r := d.r - 1, k := d.k + 1, acState := if d.r - 1 = 0 then .setValue else .skipRun }
      | .setValue => placeAt (d.acNext <<< d.al) { d with acState := .initial }
      | .eobRun => .ok () { d with k := d.k + 1 }
      | .initial => .ok () d

/-- State 0: read a symbol, which always leaves state 0 (44 R231). -/
def acSuccSymbol (src : Nat → Option Byte) (ac : HuffTable) (d : Decoder) : Res Unit :=
  if d.acState = .initial then
    (decodeHuffman src ac d).andThen fun rs d' => acSymbol src .succ rs d'
  else .ok () d

/-- `while k <= se` of AC_SUCC (44 R231), one position a pass. -/
def acSuccLoop (m : RefineMode) (src : Nat → Option Byte) (ac : HuffTable) : Nat → Decoder → Res Unit
  | 0, d => .ok () d
  | fuel + 1, d =>
    if d.se < d.k then .ok () d
    else
      (acSuccSymbol src ac d).andThen fun _ d' =>
        (acVisit m src d').andThen fun _ d'' => acSuccLoop m src ac fuel d''

/-- The end of an AC_SUCC block (44 R231, R233). DESIGN CHOICE (log 24): `eobrun - 1` is a natural, so an EOB run of
0, which no scan meets, ends with the block. -/
def acSuccEnd (d : Decoder) : Res Unit :=
  match d.acState with
  | .initial => .ok () d
  | .eobRun =>
    .ok () { d with eobrun := d.eobrun - 1, acState := if d.eobrun - 1 = 0 then .initial else .eobRun }
  | .skipZrl => .raise (.abort .refineState) d
  | .skipRun => .raise (.abort .refineState) d
  | .setValue => .raise (.abort .refineState) d

/-- AC_SUCC (44 R231). -/
def acSuccBlock (m : RefineMode) (src : Nat → Option Byte) (d : Decoder) : Res Unit :=
  withTable (curAc d) d fun ac =>
    (acSuccLoop m src ac 64 { d with k := d.ss, r := 0 }).andThen fun _ d' => acSuccEnd d'

/-- The routine of a mode (44 R213). -/
def blockRoutine (m : RefineMode) (src : Nat → Option Byte) (mode : ScanMode) (d : Decoder) : Res Unit :=
  match mode with
  | .baseline => baselineBlock src d
  | .dcFirst => dcFirstBlock src d
  | .dcSucc => dcSuccBlock src d
  | .acFirst => acFirstBlock src d
  | .acSucc => acSuccBlock m src d

/-! The rows of the selector, each run by itself: select the mode and decode the block that State
names with its routine (30 R97; log 3, log 10). -/

/-- Select a mode and decode one block with its routine. -/
def runMode (mode : ScanMode) (s : State) : Result :=
  runRule s fun d => onBlock (blockRoutine s.params.refineMode s.streamByte mode) { d with mode := some mode }

/-- BASELINE (30 R97, 44 R227); the selector's two low bits are not read. -/
def execBaseline (_ssIs0 _ahIs0 : Bool) (s : State) : Result := runMode .baseline s

/-- DC_FIRST (30 R97, 44 R228). -/
def execDcFirst (s : State) : Result := runMode .dcFirst s

/-- DC_SUCC (30 R97, 44 R229). -/
def execDcSucc (s : State) : Result := runMode .dcSucc s

/-- AC_FIRST (30 R97, 44 R230). -/
def execAcFirst (s : State) : Result := runMode .acFirst s

/-- AC_SUCC (30 R97, 44 R231). -/
def execAcSucc (s : State) : Result := runMode .acSucc s

end Sys2Proof.Machine
end

