-- ==== Sys2Proof/Machine/Scan.lean ====
section
/-! DEFINITION. DECODE_SCAN: the checks, the binding, the MCU and restart-interval loops, and the marker at an interval's end (spec/44_scan_decoder.md R210 to R226). -/

namespace Sys2Proof.Machine

/-- The mode of a scan (30 R97, 44 R213). -/
def selectMode (progressive ssIs0 ahIs0 : Bool) : ScanMode :=
  if progressive then
    if ssIs0 then (if ahIs0 then .dcFirst else .dcSucc)
    else (if ahIs0 then .acFirst else .acSucc)
  else .baseline

/-- The mode of the scan that SCAN_CFG describes. -/
def scanModeOf (s : State) (f : Frame) : ScanMode :=
  selectMode f.progressive (cfgSs s == 0) (cfgAh s == 0)

/-- The mode reads DC symbols, so it needs a DC table (44 R211, check 3c). -/
def needsDc (m : ScanMode) : Bool :=
  match m with
  | .baseline => true
  | .dcFirst => true
  | .dcSucc => false
  | .acFirst => false
  | .acSucc => false

/-- The mode reads AC symbols, so it needs an AC table (44 R211, check 3c). -/
def needsAc (m : ScanMode) : Bool :=
  match m with
  | .baseline => true
  | .dcFirst => false
  | .dcSucc => false
  | .acFirst => true
  | .acSucc => true

/-- The mode has a band, so SS and SE are checked (44 R211, check 4). -/
def hasBand (m : ScanMode) : Bool :=
  match m with
  | .baseline => false
  | .dcFirst => false
  | .dcSucc => false
  | .acFirst => true
  | .acSucc => true

/-- Check 3 of 44 R211 for one SCAN_COMP register, but for the repeated CID. -/
def scanCompOk (s : State) (f : Frame) (w : Word) : Bool :=
  (f.comps.any fun c => c.cid == scanCid w) &&
    (scanTd w ≤ 3) && (scanTa w ≤ 3) &&
    (!needsDc (scanModeOf s f) || slotFull (scanTd w) s.dcTab) &&
    (!needsAc (scanModeOf s f) || slotFull (scanTa w) s.acTab)

/-- DECODE_SCAN's checks on a latched frame, in order (44 R211): the first that fails, if any. -/
def checkScan (s : State) (f : Frame) : Option ErrCode :=
  if s.built then some .sequence
  else if cfgNs s = 0 ∨ 4 < cfgNs s then some .scanParam
  else if ¬ ((scanCompCfgs s).map scanCid).Nodup then some .scanParam
  else if (scanCompCfgs s).any fun w => !scanCompOk s f w then some .scanParam
  else if hasBand (scanModeOf s f) && (63 < cfgSe s || cfgSe s < cfgSs s) then some .scanParam
  else none

/-- The scan component SCAN_COMPj names (44 R212). -/
def bindComp (s : State) (f : Frame) (w : Word) : ScanComp :=
  { comp := f.comps.findIdx fun c => c.cid == scanCid w
    dc := storeGet (scanTd w) s.dcTab
    ac := storeGet (scanTa w) s.acTab }

/-- The scan component list (44 R212). -/
def bindComps (s : State) (f : Frame) : List ScanComp := (scanCompCfgs s).map (bindComp s f)

/-- `exp` (44 R214): the unpadded blocks of the one component, or the MCUs of the frame. -/
def mcusExpected (f : Frame) (scomps : List ScanComp) : Nat :=
  match scomps with
  | [sc] =>
    match f.comps[sc.comp]? with
    | some c => c.bpl * c.bpc
    | none => 0
  | _ => f.mcusPerLine * f.mcusPerColumn

/-- `ri` (44 R215). -/
def restartEvery (s : State) (expected : Nat) : Nat :=
  if s.restartInterval = 0#16 then expected else s.restartInterval.toNat

/-- The start of a scan, after its checks (44 R216). -/
def startScan (s : State) (f : Frame) : State :=
  let scomps := bindComps s f
  let expected := mcusExpected f scomps
  { s with
    abortCause := .none
    dec := { s.dec with
      mode := some (scanModeOf s f)
      ss := cfgSs s, se := cfgSe s, ah := cfgAh s, al := cfgAl s
      scomps := scomps
      cur := s.streamPos.toNat, bitsCount := 0
      mcuCount := 0, mcuExpected := expected, interval := restartEvery s expected } }

/-- The blocks of component number `j` in the MCU at (mr, mc): v rows of h blocks (44 R219). -/
def compBlocks (c : Comp) (j mr mc : Nat) : List (Nat × Nat × Nat) :=
  (List.range c.v).flatMap fun y =>
    (List.range c.h).map fun x => (j, mr * c.v + y, mc * c.h + x)

/-- The blocks of an interleaved MCU, component by component in scan order (44 R219). -/
def interleavedBlocks (f : Frame) (mr mc : Nat) : Nat → List ScanComp → List (Nat × Nat × Nat)
  | _, [] => []
  | j, sc :: rest =>
    (match f.comps[sc.comp]? with
      | some c => compBlocks c j mr mc
      | none => []) ++ interleavedBlocks f mr mc (j + 1) rest

/-- The blocks of MCU number `m`, in decoding order, as (index in scomps, row, column) (44 R218, R219). -/
def mcuBlocks (f : Frame) (scomps : List ScanComp) (m : Nat) : List (Nat × Nat × Nat) :=
  match scomps with
  | [sc] =>
    match f.comps[sc.comp]? with
    | some c => [(0, m / c.bpl, m % c.bpl)]
    | none => []
  | _ => interleavedBlocks f (m / f.mcusPerLine) (m % f.mcusPerLine) 0 scomps

/-- Make (j, row, col) the block being decoded. -/
def selectBlock (b : Nat × Nat × Nat) (d : Decoder) : Decoder :=
  { d with blkComp := b.1, blkRow := b.2.1, blkCol := b.2.2 }

/-- Decode the listed blocks, each with the routine (44 R219). -/
def decodeBlocks (routine : Decoder → Res Unit) : List (Nat × Nat × Nat) → Decoder → Res Unit
  | [], d => .ok () d
  | b :: rest, d =>
    (onBlock routine (selectBlock b d)).andThen fun _ d' => decodeBlocks routine rest d'

/-- DecodeMCU(mcu) (44 R218, R219); the MCU's number is the count so far. -/
def decodeMcu (routine : Decoder → Res Unit) (d : Decoder) : Res Unit :=
  match d.frame with
  | some f => decodeBlocks routine (mcuBlocks f d.scomps d.mcuCount) d
  | none => .raise (.stop .noSuchBlock) d

/-- `while n < ri and mcu < exp` (44 R210), at most `n` more MCUs; MCU_COUNT counts each that
completes (44 R226). -/
def mcuLoop (routine : Decoder → Res Unit) : Nat → Decoder → Res Unit
  | 0, d => .ok () d
  | n + 1, d =>
    if d.mcuCount < d.mcuExpected then
      (decodeMcu routine d).andThen fun _ d' => mcuLoop routine n { d' with mcuCount := d'.mcuCount + 1 }
    else .ok () d

/-- `pred <- 0` for each component of the list. -/
def resetPreds : List ScanComp → Decoder → Decoder
  | [], d => d
  | sc :: rest, d => resetPreds rest (modifyComp sc.comp (fun c => { c with pred := 0#32 }) d)

/-- The resets at the start of every restart interval (44 R217). -/
def startInterval (d : Decoder) : Decoder :=
  { resetPreds d.scomps d with eobrun := 0, acState := .initial, acNext := 0#32 }

/-- EndOfIntervalMarker() (44 R220): bytes read by Fetch8's rule, without stuffing. -/
def endOfIntervalMarker (src : Nat → Option Byte) (d : Decoder) : Res Half :=
  match src d.cur with
  | none => .raise (.interval .streamEos d.cur) d
  | some hi =>
    match src (d.cur + 1) with
    | none => .raise (.interval .streamEos (d.cur + 1)) d
    | some lo =>
      if bigEndian hi lo ≤ 0xFF00#16 then .raise (.interval .markerNotFound d.cur) d
      else .ok (bigEndian hi lo) { d with cur := d.cur + 2 }

/-- A restart marker, RST0 to RST7 (44 R221). -/
def isRst (m : Half) : Bool := m &&& 0xFFF8#16 == 0xFFD0#16

/-- One restart interval: the resets, its MCUs, byte alignment and the marker at its end (44 R210). -/
def oneInterval (routine : Decoder → Res Unit) (src : Nat → Option Byte) (d : Decoder) : Res Half :=
  let d := startInterval d
  (mcuLoop routine d.interval d).andThen fun _ d' => endOfIntervalMarker src (align d')

/-- The interval loop (44 R210, R221), after `n` intervals more at most. Each interval decodes an MCU,
so `exp` intervals are enough. -/
def intervals (routine : Decoder → Res Unit) (src : Nat → Option Byte) : Nat → Decoder → Res Half
  | 0, d => oneInterval routine src d
  | n + 1, d =>
    (oneInterval routine src d).andThen fun m d' =>
      if isRst m && (d'.mcuCount < d'.mcuExpected) then intervals routine src n d'
      else .ok m d'

/-- How DECODE_SCAN ends, from what its loops answer (44 R210). -/
def scanOutcome (s : State) (x : Res Half) : Result :=
  match x with
  | .ok m d => .next (finish (endScan m { s with dec := d }))
  | .raise e d => endScanBy s e d

/-- DECODE_SCAN on a started scan (44 R210). -/
def runScan (s : State) : Result :=
  match s.dec.mode with
  | some mode =>
    scanOutcome s
      (intervals (blockRoutine s.params.refineMode s.streamByte mode) s.streamByte s.dec.mcuExpected s.dec)
  | none => fatalEnd .sequence s.streamPos s

/-- DECODE_SCAN (44 R210). -/
def execDecodeScan (s : State) : Result :=
  match s.dec.frame with
  | none => fatalEnd .sequence s.streamPos s
  | some f =>
    match checkScan s f with
    | some c => fatalEnd c s.streamPos s
    | none => runScan (startScan s f)

end Sys2Proof.Machine
end

