-- ==== Sys2Proof/Machine/Markers.lean ====
section
/-! DEFINITION. What a marker does to the scan in whose stream the core meets it (spec/30_encoding.md R86; spec/41_bit_reader.md R143, R144; spec/44_scan_decoder.md R221, R223). -/

namespace Sys2Proof.Machine

/-- A marker that is not RSTn ends the scan: EndScan(m), then the end of the step (44 R221, R223). The
marker's two bytes are already consumed. A marker stands in a scan's stream only (30 R86), so with no frame
to scan the row is out of sequence (log 10). -/
def markerEndsScan (m : Half) (s : State) : Result :=
  if s.frameValid && !s.built then .next (finish (endScan m s))
  else fatalEnd .sequence s.streamPos s

/-- RSTn at an interval's end (44 R221): with MCUs left the next interval starts and the command goes
on; otherwise the scan ends. The number n is not checked. -/
def restartMarker (m : Half) (s : State) : Result :=
  if s.frameValid && !s.built then
    if s.dec.mcuCount < s.dec.mcuExpected then
      .next { s with dec := startInterval (align s.dec) }
    else .next (finish (endScan m s))
  else fatalEnd .sequence s.streamPos s

/-- SOI (30 R86). -/
def execSoi (s : State) : Result := markerEndsScan 0xFFD8#16 s

/-- EOI (30 R86). -/
def execEoi (s : State) : Result := markerEndsScan 0xFFD9#16 s

/-- RST0 to RST7 (44 R221). -/
def execRst (n : BitVec 3) (s : State) : Result := restartMarker (0xFFD0#16 ||| n.setWidth 16) s

/-- SOF0 (30 R86). -/
def execSof0 (s : State) : Result := markerEndsScan 0xFFC0#16 s

/-- SOF2 (30 R86). -/
def execSof2 (s : State) : Result := markerEndsScan 0xFFC2#16 s

/-- DHT (30 R86). -/
def execDht (s : State) : Result := markerEndsScan 0xFFC4#16 s

/-- DQT (30 R86). -/
def execDqt (s : State) : Result := markerEndsScan 0xFFDB#16 s

/-- SOS (30 R86). -/
def execSos (s : State) : Result := markerEndsScan 0xFFDA#16 s

/-- DRI (30 R86). -/
def execDri (s : State) : Result := markerEndsScan 0xFFDD#16 s

/-- APP0 to APP15 (30 R86). -/
def execApp (n : BitVec 4) (s : State) : Result := markerEndsScan (0xFFE0#16 ||| n.setWidth 16) s

/-- COM (30 R86). -/
def execCom (s : State) : Result := markerEndsScan 0xFFFE#16 s

/-- STUFFED_FF: not a marker, the data byte 0xFF with its stuffing byte dropped (41 R143). The reader takes
the byte's first bit, as ReadBit does on fetching it (41 R142). DESIGN CHOICE (log 23): the row does so also where
bits are held, when ReadBit would fetch nothing; they are dropped, and `cur` stays where it is. -/
def execStuffedFF (s : State) : Result :=
  runRule s fun d => (deliver 0xFF#8 d).andThen fun _ d' => .ok () d'

end Sys2Proof.Machine
end

