-- ==== Sys2Proof/Machine/Dispatch.lean ====
section
/-! DEFINITION. One arm per instruction, each a direct call of its meaning. -/

namespace Sys2Proof.Machine

/-- The meaning of an instruction. -/
def exec (i : Instr) (s : State) : Host.Outcome State Fault Refusal :=
  match i with
  | .nop => Sys2Proof.Machine.execNop s
  | .clear => Sys2Proof.Machine.execClear s
  | .loadDqt => Sys2Proof.Machine.execLoadDqt s
  | .loadDht => Sys2Proof.Machine.execLoadDht s
  | .setFrame => Sys2Proof.Machine.execSetFrame s
  | .decodeScan => Sys2Proof.Machine.execDecodeScan s
  | .buildComponents => Sys2Proof.Machine.execBuildComponents s
  | .colorConvert => Sys2Proof.Machine.execColorConvert s
  | .illegalCmdLow opcode => Sys2Proof.Machine.execIllegalCmdLow opcode s
  | .illegalCmdOther w => Sys2Proof.Machine.execIllegalCmdOther w s
  | .dqtGroup8 tq => Sys2Proof.Machine.execDqtGroup8 tq s
  | .dqtGroup16 tq => Sys2Proof.Machine.execDqtGroup16 tq s
  | .dqtReserved2 pq tq => Sys2Proof.Machine.execDqtReserved2 pq tq s
  | .dqtReserved4 pq tq => Sys2Proof.Machine.execDqtReserved4 pq tq s
  | .dqtReserved8 pq tq => Sys2Proof.Machine.execDqtReserved8 pq tq s
  | .dhtGroupDc th => Sys2Proof.Machine.execDhtGroupDc th s
  | .dhtGroupAc th => Sys2Proof.Machine.execDhtGroupAc th s
  | .dhtReserved tc th => Sys2Proof.Machine.execDhtReserved tc th s
  | .baseline ssIs0 ahIs0 => Sys2Proof.Machine.execBaseline ssIs0 ahIs0 s
  | .dcFirst => Sys2Proof.Machine.execDcFirst s
  | .dcSucc => Sys2Proof.Machine.execDcSucc s
  | .acFirst => Sys2Proof.Machine.execAcFirst s
  | .acSucc => Sys2Proof.Machine.execAcSucc s
  | .dcDiff t => Sys2Proof.Machine.execDcDiff t s
  | .dcReserved16 t => Sys2Proof.Machine.execDcReserved16 t s
  | .dcReserved32 t => Sys2Proof.Machine.execDcReserved32 t s
  | .dcReserved64 t => Sys2Proof.Machine.execDcReserved64 t s
  | .dcReserved128 t => Sys2Proof.Machine.execDcReserved128 t s
  | .acZrl => Sys2Proof.Machine.execAcZrl s
  | .acEob0 r => Sys2Proof.Machine.execAcEob0 r s
  | .acEob8 r => Sys2Proof.Machine.execAcEob8 r s
  | .acEob12 r => Sys2Proof.Machine.execAcEob12 r s
  | .acEob14 => Sys2Proof.Machine.execAcEob14 s
  | .acRunSize1 r => Sys2Proof.Machine.execAcRunSize1 r s
  | .acRunSize2 r sz => Sys2Proof.Machine.execAcRunSize2 r sz s
  | .acRunSize4 r sz => Sys2Proof.Machine.execAcRunSize4 r sz s
  | .acRunSize8 r sz => Sys2Proof.Machine.execAcRunSize8 r sz s
  | .dcSuccBit b => Sys2Proof.Machine.execDcSuccBit b s
  | .acSuccCorrectionBit b => Sys2Proof.Machine.execAcSuccCorrectionBit b s
  | .soi => Sys2Proof.Machine.execSoi s
  | .eoi => Sys2Proof.Machine.execEoi s
  | .rst n => Sys2Proof.Machine.execRst n s
  | .sof0 => Sys2Proof.Machine.execSof0 s
  | .sof2 => Sys2Proof.Machine.execSof2 s
  | .dht => Sys2Proof.Machine.execDht s
  | .dqt => Sys2Proof.Machine.execDqt s
  | .sos => Sys2Proof.Machine.execSos s
  | .dri => Sys2Proof.Machine.execDri s
  | .app n => Sys2Proof.Machine.execApp n s
  | .com => Sys2Proof.Machine.execCom s
  | .stuffedFF => Sys2Proof.Machine.execStuffedFF s
  | .color1cYCbCrOutYCbCr => Sys2Proof.Machine.execColor1cYCbCrOutYCbCr s
  | .color1cYCbCrOutRgb => Sys2Proof.Machine.execColor1cYCbCrOutRgb s
  | .color1cCmykOutYCbCr => Sys2Proof.Machine.execColor1cCmykOutYCbCr s
  | .color1cCmykOutRgb => Sys2Proof.Machine.execColor1cCmykOutRgb s
  | .color1cYcckOutYCbCr => Sys2Proof.Machine.execColor1cYcckOutYCbCr s
  | .color1cYcckOutRgb => Sys2Proof.Machine.execColor1cYcckOutRgb s
  | .color2cYCbCrOutYCbCr => Sys2Proof.Machine.execColor2cYCbCrOutYCbCr s
  | .color2cYCbCrOutRgb => Sys2Proof.Machine.execColor2cYCbCrOutRgb s
  | .color2cCmykOutYCbCr => Sys2Proof.Machine.execColor2cCmykOutYCbCr s
  | .color2cCmykOutRgb => Sys2Proof.Machine.execColor2cCmykOutRgb s
  | .color2cYcckOutYCbCr => Sys2Proof.Machine.execColor2cYcckOutYCbCr s
  | .color2cYcckOutRgb => Sys2Proof.Machine.execColor2cYcckOutRgb s
  | .color3cYCbCrOutYCbCr => Sys2Proof.Machine.execColor3cYCbCrOutYCbCr s
  | .color3cYCbCrOutRgb => Sys2Proof.Machine.execColor3cYCbCrOutRgb s
  | .color4cCmykOutYCbCr => Sys2Proof.Machine.execColor4cCmykOutYCbCr s
  | .color4cCmykOutRgb => Sys2Proof.Machine.execColor4cCmykOutRgb s
  | .color4cYcckOutYCbCr => Sys2Proof.Machine.execColor4cYcckOutYCbCr s
  | .color4cYcckOutRgb => Sys2Proof.Machine.execColor4cYcckOutRgb s
  | .colorModeOther ncomp src out => Sys2Proof.Machine.execColorModeOther ncomp src out s

end Sys2Proof.Machine
end

