-- ==== Sys2Proof/Machine/Turn.lean ====
section
/-! DEFINITION. What one step does: the core's command step, a host move, a latched symbol, and placing an instruction where the next step meets it. -/

namespace Sys2Proof.Machine

/-- The core's step while BUSY = 1 (40 R121): the error gate (40 R120), else the pending command. -/
def coreStep (s : State) : Result :=
  if gateDiscards s then .next (discardCommand s) else exec (decodeCmd s.pending) s

/-- The core's turn: its step if one is enabled, else nothing (70 R356). -/
def coreTurn (s : State) : Result := if s.busy then coreStep s else .next s

/-- The instruction of a latched symbol runs by itself; the latch is emptied (log 3). -/
def latchStep (l : Symbol) (s : State) : Result :=
  match decode l.fmt l.bits with
  | .ok i => exec i { s with latch := none }
  | .error _ => .refused .undecodable

/-- The next move of the agenda, already taken from it (20 R70, 40 R130; log 1). -/
def agendaStep (m : HostMove) (s : State) : Result :=
  match m with
  | .read slot => .next (busRead slot s)
  | .write slot w => .next (busWrite slot w s)
  | .streamWrite a b => streamPoke a b s
  | .coreTurn => coreTurn s

/-- One step: a latched symbol first, then the agenda's next move, then the core's turn. -/
def turn (s : State) : Result :=
  match s.latch with
  | some l => latchStep l s
  | none =>
    match s.agenda with
    | m :: rest => agendaStep m { s with agenda := rest }
    | [] => coreTurn s

/-- Issue the command word `w` as a write to CMD in the state ERR_CODE = 0 does, so that the very next
step is the core's (log 16). -/
def placeCommand (w : Word) (s : State) : State :=
  { s with busy := true, pending := w, errCode := .none, latch := none, agenda := [] }

/-- Put an encoded instruction where the next step meets it (log 16): a command word into CMD, any other
word into the latch with its format. -/
def placeWord (s : State) (nbits w : Nat) : State :=
  match tableFormat nbits w with
  | none => s
  | some .cmd => placeCommand (BitVec.ofNat 32 w) s
  | some f => { s with latch := some { fmt := f, bits := BitVec.ofNat 32 w } }

end Sys2Proof.Machine
end

