-- ==== Sys2Proof/Machine/HostContract.lean ====
section
/-! DEFINITION. The host's side of the contract as plain functions: the pseudo-statements (spec/30_encoding.md R81), the action a host takes at each marker (R86) and the header-to-register mapping (R100). No step uses them. -/

namespace Sys2Proof.Machine

/-- The slot of the register at a byte offset. -/
def slotOf (offset : Nat) : BitVec 6 := BitVec.ofNat 6 (offset / 4)

/-- `C <OP>`: write the command word to CMD (30 R81, R83). -/
def hostCommand (opcode : Word) : HostMove := .write (slotOf 0x00C) opcode
/-- `ACK`: clear DONE, SCAN_ABORTED and OVERRUN (30 R81). -/
def hostAck : HostMove := .write (slotOf 0x008) 0x0000001A#32
/-- `POS <a>` (30 R81). -/
def hostPos (a : Word) : HostMove := .write (slotOf 0x014) a
/-- `LEN <n>` (30 R81). -/
def hostLen (n : Word) : HostMove := .write (slotOf 0x010) n
/-- One turn of `WAIT` reads STATUS; it ends when BUSY is 0 in the value read (30 R81). -/
def hostPoll : HostMove := .read (slotOf 0x008)
/-- The value read ends the WAIT. -/
def waitEnds (status : Word) : Bool := !status.getLsbD 0
/-- `RUN <OP>` where the core takes its step before the first poll (30 R81). -/
def hostRun (opcode : Word) : List HostMove := [hostCommand opcode, .coreTurn, hostPoll]

/-- What the host does at a marker it meets (30 R86). -/
inductive HostAction where
  | startOfImage
  | opaqueSegment
  | loadQuantTables
  | frameHeader (progressive : Bool)
  | loadHuffmanTables
  | restartInterval
  | scanHeader
  | endOfImage
  /-- RST0 to RST7: consumed by DECODE_SCAN, never met by the host's parse -/
  | insideScan
  /-- any other marker at top level: the host stops the image (70 R355) -/
  | stopImage
  deriving DecidableEq, Repr

/-- The host's action at a 16-bit marker value (30 R86, 70 R355). -/
def hostAction (m : Half) : HostAction :=
  if m = 0xFFD8#16 then .startOfImage
  else if m = 0xFFD9#16 then .endOfImage
  else if m &&& 0xFFF8#16 = 0xFFD0#16 then .insideScan
  else if m = 0xFFC0#16 then .frameHeader false
  else if m = 0xFFC2#16 then .frameHeader true
  else if m = 0xFFC4#16 then .loadHuffmanTables
  else if m = 0xFFDB#16 then .loadQuantTables
  else if m = 0xFFDA#16 then .scanHeader
  else if m = 0xFFDD#16 then .restartInterval
  else if m &&& 0xFFF0#16 = 0xFFE0#16 then .opaqueSegment
  else if m = 0xFFFE#16 then .opaqueSegment
  else .stopImage

/-- A frame component of a SOF header: Ci, Hi, Vi, Tqi. -/
structure SofComp where
  c : Byte
  h : BitVec 4
  v : BitVec 4
  tq : BitVec 4
  deriving DecidableEq, Repr

/-- COMP_CFGi of a SOF component (30 R100). -/
def sofCompWord (c : SofComp) : Word := (c.tq ++ c.v ++ c.h ++ c.c).setWidth 32

/-- FRAME_CFG of a SOF header; a count above 4 is written as 0 (30 R100). -/
def sofFrameWord (progressive : Bool) (precision : Byte) (nf : Nat) : Word :=
  ((if nf ≤ 4 then BitVec.ofNat 3 nf else 0#3) ++ precision ++ 0#7 ++ BitVec.ofBool progressive).setWidth 32

/-- Writes of words to consecutive slots. -/
def writesFrom (slot : BitVec 6) : List Word → List HostMove
  | [] => []
  | w :: rest => .write slot w :: writesFrom (slot + 1#6) rest

/-- The register writes of a SOF0 or SOF2 header, before SET_FRAME (30 R100). DESIGN CHOICE (log 20): with more
than four components, for which the rule writes 0 as the count, the host writes no COMP_CFG register. -/
def sofWrites (progressive : Bool) (precision : Byte) (y x : Half) (comps : List SofComp) : List HostMove :=
  .write (slotOf 0x020) (sofFrameWord progressive precision comps.length) ::
    .write (slotOf 0x024) (y ++ x) ::
    writesFrom (slotOf 0x028) (if comps.length ≤ 4 then comps.map sofCompWord else [])

/-- A scan component of a SOS header: Csj, Tdj, Taj. -/
structure SosComp where
  c : Byte
  td : BitVec 4
  ta : BitVec 4
  deriving DecidableEq, Repr

/-- SCAN_COMPj of a SOS component (30 R100). -/
def sosCompWord (c : SosComp) : Word := (c.ta ++ c.td ++ c.c).setWidth 32

/-- SCAN_CFG of a SOS header; a count above 4 is written as 0 (30 R100). -/
def sosScanWord (ns : Nat) (ss se : Byte) (ah al : BitVec 4) : Word :=
  al ++ ah ++ se ++ ss ++ 0#5 ++ (if ns ≤ 4 then BitVec.ofNat 3 ns else 0#3)

/-- The register writes of a SOS header, before DECODE_SCAN (30 R100). DESIGN CHOICE (log 20): with more than
four components, for which the rule writes 0 as the count, the host writes no SCAN_COMP register. -/
def sosWrites (comps : List SosComp) (ss se : Byte) (ah al : BitVec 4) (after : Word) : List HostMove :=
  .write (slotOf 0x064) (sosScanWord comps.length ss se ah al) ::
    (writesFrom (slotOf 0x068) (if comps.length ≤ 4 then comps.map sosCompWord else []) ++ [hostPos after])

/-- The register write of a DRI header (30 R100). -/
def driWrite (ri : Half) : HostMove := .write (slotOf 0x078) (ri.setWidth 32)

/-- SRC_CS_CFG of an APP14 "Adobe" segment with the given transform byte (30 R100). -/
def adobeWord (transform : Byte) : Word :=
  let cs : BitVec 2 := if transform = 1#8 then 0#2 else if transform = 2#8 then 3#2 else 2#2
  (cs ++ 0#3 ++ 1#1).setWidth 32

end Sys2Proof.Machine
end

