-- ==== Sys2Proof/Safety.lean ====
section
/-! DEFINITION. What a clean run is, and the invariant of the machine: the well-formed states that no step leaves. -/

namespace Sys2Proof.Machine

/-- A component without what a scan changes in it: its predictor and its coefficients (10 R50, R51). -/
def Comp.outline (c : Comp) : Comp := { c with pred := 0#32, coefs := [] }

/-- A frame without what a scan changes in it. -/
def Frame.outline (f : Frame) : Frame := { f with comps := f.comps.map Comp.outline }

end Sys2Proof.Machine

namespace Sys2Proof.Safety

open Sys2Proof.Machine

/-- Two frame records (10 R50), absent or not, differ in predictors and coefficients at most. -/
def sameRecord (f f' : Option Frame) : Prop := f'.map Frame.outline = f.map Frame.outline

/-- A clean run so far (70 R359): no fatal error was raised and no write or command was discarded. -/
def clean (s : State) : Prop := s.faultSeen = false ∧ s.discardSeen = false

/-- A component record's numbers, with the frame's size and maxima (43 R191, R194, R195). -/
def compWf (f : Frame) (c : Comp) : Prop :=
  (1 ≤ c.h ∧ c.h ≤ 4) ∧ (1 ≤ c.v ∧ c.v ≤ 4) ∧ c.h ≤ f.maxH ∧ c.v ≤ f.maxV ∧ c.tq < 16 ∧
  c.bpl = ceilDiv (ceilDiv f.samplesPerLine 8 * c.h) f.maxH ∧
  c.bpc = ceilDiv (ceilDiv f.scanLines 8 * c.v) f.maxV ∧
  c.bplm = f.mcusPerLine * c.h ∧
  c.bpcm = f.mcusPerColumn * c.v

/-- The coefficient memory's form: canonical, and no entry outside the component's blocks (20 R64). -/
def coefsWf (c : Comp) : Prop :=
  Store.canonical 0#32 c.coefs ∧ ∀ e ∈ c.coefs, e.1 < 64 * (c.bpcm * c.bplm)

/-- A latched frame (10 R50, R51; 43 R191 to R195). -/
def frameWf (f : Frame) : Prop :=
  (1 ≤ f.comps.length ∧ f.comps.length ≤ 4) ∧
  (1 ≤ f.samplesPerLine ∧ f.samplesPerLine < 65536) ∧ (1 ≤ f.scanLines ∧ f.scanLines < 65536) ∧
  f.maxH = maxOf (f.comps.map (·.h)) ∧ f.maxV = maxOf (f.comps.map (·.v)) ∧
  f.mcusPerLine = ceilDiv f.samplesPerLine (8 * f.maxH) ∧
  f.mcusPerColumn = ceilDiv f.scanLines (8 * f.maxV) ∧
  (f.comps.map (·.cid)).Nodup ∧
  (∀ c ∈ f.comps, compWf f c) ∧ (∀ c ∈ f.comps, coefsWf c)

/-- One component's lines have the component's geometry (45 R271). -/
def planeWf (c : Comp) (p : Plane) : Prop :=
  p.length = 8 * c.bpc ∧ ∀ row ∈ p, row.length = 8 * c.bpl

/-- The lines of a built frame: one plane for each component, in order (10 R56, 45 R271). -/
def planesWf : List Comp → List Plane → Prop
  | [], [] => True
  | c :: cs, p :: ps => planeWf c p ∧ planesWf cs ps
  | [], _ :: _ => False
  | _ :: _, [] => False

/-- BUILT implies FRAME_VALID, and the lines fit the frame (10 R56). -/
def linesWf (frame : Option Frame) (lines : Option (List Plane)) : Prop :=
  match lines, frame with
  | none, _ => True
  | some planes, some f => planesWf f.comps planes
  | some _, none => False

/-- One entry of a code table: a codeword of 1 to 16 bits (10 R53). -/
def entryWf (e : HuffEntry) : Prop := 1 ≤ e.len ∧ e.len ≤ 16 ∧ e.code < 2 ^ e.len

/-- Entry `a`'s code is a prefix of entry `b`'s, read as bit strings of their lengths (42 R162). -/
def codePrefixOf (a b : HuffEntry) : Prop := a.len ≤ b.len ∧ b.code >>> (b.len - a.len) = a.code

/-- A code table: codewords of 1 to 16 bits, at most HT_MAX_SYMBOLS, none a prefix of another's (10 R53,
42 R162, R164). -/
def tableWf (maxSymbols : Nat) (t : HuffTable) : Prop :=
  t.length ≤ maxSymbols ∧ (∀ e ∈ t, entryWf e) ∧ t.Pairwise fun a b => ¬ codePrefixOf a b ∧ ¬ codePrefixOf b a

/-- A table store: slots rising and below the number of slots (10 R52, R53). -/
def slotsWf {α : Type} (n : Nat) (m : Store α) : Prop := Store.rising m ∧ ∀ e ∈ m, e.1 < n

/-- The unimplemented bits of the configuration registers read 0 (10 R21). -/
def reservedZero (s : State) : Prop :=
  s.frameCfg &&& ~~~frameCfgMask = 0#32 ∧
  (∀ i : Fin 4, fourGet s.compCfg i &&& ~~~compCfgMask = 0#32) ∧
  s.scanCfg &&& ~~~scanCfgMask = 0#32 ∧
  (∀ i : Fin 4, fourGet s.scanComp i &&& ~~~scanCompMask = 0#32) ∧
  s.srcCsCfg &&& ~~~srcCsCfgMask = 0#32 ∧ s.outCfg &&& ~~~outCfgMask = 0#32

/-- Stream memory is in its canonical form, and the reserved register bits read 0. -/
def storageInv (s : State) : Prop := Memory.wf s.mem ∧ reservedZero s

/-- The bit reader holds at most 7 bits (10 R54), a latched frame is well formed, and the lines of a built
frame have its geometry. -/
def frameInv (s : State) : Prop :=
  s.dec.bitsCount ≤ 7 ∧ (∀ f, s.dec.frame = some f → frameWf f) ∧ linesWf s.dec.frame s.lines

/-- The table stores hold their slots only, and every Huffman table is a prefix code (10 R52, R53). -/
def tablesInv (s : State) : Prop :=
  slotsWf 16 s.qt ∧ slotsWf 4 s.dcTab ∧ slotsWf 4 s.acTab ∧
  (∀ e ∈ s.dcTab, tableWf s.params.htMaxSymbols e.2) ∧ (∀ e ∈ s.acTab, tableWf s.params.htMaxSymbols e.2)

/-- The ghost flags remember (70 R359): ERR_CODE ≠ 0 only after a fatal error, ABORT_CAUSE ≠ 0 and
SCAN_ABORTED only after an abort, OVERRUN only after a discard. -/
def ghostsInv (s : State) : Prop :=
  (s.errCode ≠ .none → s.faultSeen = true) ∧ (s.abortCause ≠ .none → s.abortSeen = true) ∧
  (s.scanAborted = true → s.abortSeen = true) ∧ (s.overrun = true → s.discardSeen = true)

/-- The invariant of the machine. -/
def StateInv (s : State) : Prop := storageInv s ∧ frameInv s ∧ tablesInv s ∧ ghostsInv s

/-! The terms the claims use. -/

/-- The core's step is the next to run: a command is pending, nothing is latched and the host makes no move
before it. -/
def commandNext (s : State) : Prop := s.latch = none ∧ s.agenda = [] ∧ s.busy = true

/-- A scan's symbols and markers may be met: a frame is latched and not built (44 R211, check 1). -/
def scanOpen (s : State) : Prop := s.frameValid = true ∧ s.built = false

/-- The end of a command: BUSY is 0, DONE is 1 and nothing else changes (40 R121). -/
def ended (s : State) : State := { s with busy := false, done := true }

/-- The end of a command by a fatal error: ERR_CODE and ERR_POS, the ghost flag, and the end (40 R122). -/
def failed (code : ErrCode) (pos : Word) (s : State) : State :=
  { s with errCode := code, errPos := pos, faultSeen := true, busy := false, done := true }

/-- The end of a scan by a marker (44 R221, R223, R226), and of its command. -/
def scanEnded (m : Half) (s : State) : State :=
  { s with lastMarker := m, streamPos := BitVec.ofNat 32 s.dec.cur
           eobrunReg := BitVec.ofNat 16 s.dec.eobrun, acStateReg := s.dec.acState
           busy := false, done := true }

/-- The end of a scan by an abort (44 R224), and of its command. -/
def aborted (c : AbortCause) (s : State) : State :=
  { s with dec := { s.dec with bitsCount := 0 }
           lastMarker := 0xFFD9#16, streamPos := BitVec.ofNat 32 s.dec.cur
           eobrunReg := BitVec.ofNat 16 s.dec.eobrun, acStateReg := s.dec.acState
           scanAborted := true, abortCause := c, abortSeen := true
           busy := false, done := true }

/-- Every register reads as in the table of 10 R59, and the internal state is as listed there. -/
def readsAsReset (s : State) : Prop :=
  (∀ slot : BitVec 6, readReg (regOfSlot slot) s =
    if slot = 0#6 then 0x4A444331#32 else if slot = 36#6 then 7#32 else 0#32) ∧
  s.frameValid = false ∧ s.built = false ∧
  (∀ t, storeGet t s.qt = none) ∧ (∀ t, storeGet t s.dcTab = none) ∧ (∀ t, storeGet t s.acTab = none) ∧
  s.dec.eobrun = 0 ∧ s.dec.acState = .initial ∧ s.dec.acNext = 0#32 ∧
  s.busy = false ∧ s.irq = false ∧ s.sink = []

/-- `q` is the ceiling of a / b (00 R11). -/
def isCeil (q a b : Nat) : Prop := a ≤ b * q ∧ b * q < a + b

/-- Two decoders differ in one coefficient of the block being decoded at most: coefficient `n`. The rest
of the block, the other blocks, the other components and the frame record are as before; the predictor of the
block's component is left to the statement. -/
def onlyCoef (n : Nat) (d d' : Decoder) : Prop :=
  sameRecord d.frame d'.frame ∧ (∀ m, m ≠ n → blkGet m d' = blkGet m d) ∧
  (∀ i, (∀ sc, curScanComp d = some sc → sc.comp ≠ i) → frameComp d' i = frameComp d i) ∧
  (∀ c c' row col m, curComp d = some c → curComp d' = some c' → col < c.bplm → m < 64 → d.blkCol < c.bplm →
    (row, col) ≠ (d.blkRow, d.blkCol) → c'.coef row col m = c.coef row col m)

/-- The same for a list of coefficients. -/
def onlyCoefs (ns : List Nat) (d d' : Decoder) : Prop :=
  sameRecord d.frame d'.frame ∧ (∀ m, m ∉ ns → blkGet m d' = blkGet m d) ∧
  (∀ i, (∀ sc, curScanComp d = some sc → sc.comp ≠ i) → frameComp d' i = frameComp d i) ∧
  (∀ c c' row col m, curComp d = some c → curComp d' = some c' → col < c.bplm → m < 64 → d.blkCol < c.bplm →
    (row, col) ≠ (d.blkRow, d.blkCol) → c'.coef row col m = c.coef row col m)

/-- The natural indices of zigzag positions `k` to `last`, in that order (45 R263). -/
def between (k last : Nat) : List Nat := (List.range' k (last + 1 - k)).filterMap zigzag

/-- The nonzero coefficients among those of `ns`: each takes a correction bit (44 R231). -/
def nonzerosOf (ns : List Nat) (d : Decoder) : List Nat := ns.filter fun n => blkGet n d ≠ 0#32

/-- The zero coefficients among those of `ns`: a run counts them (44 R231). -/
def zerosOf (ns : List Nat) (d : Decoder) : List Nat := ns.filter fun n => blkGet n d = 0#32

/-- The natural indices of the band SS to SE, in zigzag order (44 R231). -/
def band (d : Decoder) : List Nat := between d.ss d.se

/-- The band's nonzero coefficients, in zigzag order. -/
def bandNonzeros (d : Decoder) : List Nat := nonzerosOf (band d) d

/-- The band's zero coefficients, in zigzag order. -/
def bandZeros (d : Decoder) : List Nat := zerosOf (band d) d

/-- Walking the band of the block in `d` with the correction bits `bs` has led to `d'` (44 R231, R232): the
nonzero coefficients are refined, each with its bit, and but for them and the coefficients of `placed` every
coefficient and the predictor are as before. -/
def bandWalked (m : RefineMode) (bs : List Bool) (placed : List Nat) (d d' : Decoder) : Prop :=
  (∀ (j n : Nat) (b : Bool), (bandNonzeros d)[j]? = some n → bs[j]? = some b →
    blkGet n d' = refine m (blkGet n d) b d.al) ∧
  onlyCoefs (placed ++ bandNonzeros d) d d' ∧ curPred d' = curPred d

/-- ReadBit delivers the bits in this order, and leaves the decoder so (41 R142). -/
def delivers (src : Nat → Option Byte) : List Bool → Decoder → Decoder → Prop
  | [], d, d' => d = d'
  | b :: bs, d, d' => ∃ d₁, readBit src d = .ok b d₁ ∧ delivers src bs d₁ d'

/-- The number a bit string writes, its first bit the most significant (41 R146). -/
def bitsValue (bs : List Bool) : Nat := bs.foldl (fun v b => 2 * v + b.toNat) 0

/-- The `len` bits of `code`, most significant first (42 R166). -/
def codeBits (len code : Nat) : List Bool := (List.range len).map fun i => code.testBit (len - 1 - i)

/-- The signed value of an extra-bits field (30 R95, 42 R168). -/
def fieldValue (bs : List Bool) : Coef := BitVec.ofInt 32 (extend (bitsValue bs) bs.length)

/-- The eight bits of a byte in the order the reader delivers them (20 R67). -/
def byteBits (b : Byte) : List Bool := (List.range 8).map fun i => b.getLsbD (7 - i)

/-- One pass of the loop of BASELINE and AC_FIRST (44 R227, R230) that does not end it: at position k, not past
`limit`, the symbol is ZRL, which skips 16 positions, or RUN/SIZE, which skips r positions, places its value shifted
left by `sh` and moves on by one. -/
def acPass (src : Nat → Option Byte) (table : HuffTable) (limit sh : Nat) (d d' : Decoder) : Prop :=
  d.k ≤ limit ∧ ∃ (rs : Byte) (d₁ : Decoder), decodeHuffman src table d = .ok rs d₁ ∧
    ((rs = 0xF0#8 ∧ d' = { d₁ with k := d.k + 16 }) ∨
      ∃ (bs : List Bool) (d₂ : Decoder) (n : Nat), rs &&& 0x0F#8 ≠ 0#8 ∧ bs.length = rs.toNat % 16 ∧
        d.k + rs.toNat / 16 ≤ limit ∧ zigzag (d.k + rs.toNat / 16) = some n ∧ delivers src bs d₁ d₂ ∧
        d' = { blkSet n (fieldValue bs <<< sh) d₂ with k := d.k + rs.toNat / 16 + 1 })

/-- `n` such passes. -/
def acPasses (src : Nat → Option Byte) (table : HuffTable) (limit sh : Nat) : Nat → Decoder → Decoder → Prop
  | 0, d, d' => d = d'
  | n + 1, d, d' => ∃ d₁, acPass src table limit sh d d₁ ∧ acPasses src table limit sh n d₁ d'

/-- The ends of that loop at `d`, but for EOB and EOBr, for a block of state `s` that answers `ans` (44 R227, R230):
k is past `limit`, the run passes it, or reading the symbol ends the scan (44 R223, R224). -/
def acLoopEnds (s : State) (table : HuffTable) (limit : Nat) (d : Decoder) (ans : Result) : Prop :=
  (limit < d.k → ans = .next { s with dec := d }) ∧
  (d.k ≤ limit → ∀ (rs : Byte) (d₁ : Decoder), decodeHuffman s.streamByte table d = .ok rs d₁ →
    rs &&& 0x0F#8 ≠ 0#8 → limit < d.k + rs.toNat / 16 →
    ans = .next (aborted .coefRange { s with dec := { d₁ with k := d.k + rs.toNat / 16 } })) ∧
  (d.k ≤ limit → ∀ (c : AbortCause) (d₁ : Decoder), decodeHuffman s.streamByte table d = .raise (.abort c) d₁ →
    ans = .next (aborted c { s with dec := d₁ })) ∧
  (d.k ≤ limit → ∀ (m : Half) (d₁ : Decoder), decodeHuffman s.streamByte table d = .raise (.marker m) d₁ →
    ans = .next (scanEnded m { s with dec := d₁ }))

/-- Each of the coefficients `ns` refined with its bit (44 R232). -/
def refined (m : RefineMode) : List Nat → List Bool → Decoder → Decoder
  | n :: ns, b :: bs, d => refined m ns bs (blkSet n (refine m (blkGet n d) b d.al) d)
  | _, _, d => d

/-- The walk of AC_SUCC over the positions from k to `last` (44 R231): from `d`, whose symbol's bits are read in
`d₁`, the nonzero coefficients on the way take their bits in order, which leaves `d₂`. -/
def succWalk (m : RefineMode) (src : Nat → Option Byte) (last : Nat) (d d₁ d₂ : Decoder) : Prop :=
  ∃ (bs : List Bool) (d' : Decoder), bs.length = (nonzerosOf (between d.k last) d).length ∧
    delivers src bs d₁ d' ∧ d₂ = refined m (nonzerosOf (between d.k last) d) bs d'

/-- One symbol of an AC_SUCC block whose run ends inside the band, at position `last` (44 R231): from state 0 at
position k, ZRL passes 16 zeros, and RUN/SIZE passes r zeros and places its value, shifted left by AL, at the next.
The automaton is in state 0 again, at the position after. -/
def succPass (m : RefineMode) (src : Nat → Option Byte) (table : HuffTable) (d d' : Decoder) : Prop :=
  ∃ (rs : Byte) (d₁ d₂ : Decoder) (last z : Nat), decodeHuffman src table d = .ok rs d₁ ∧
    d.k ≤ last ∧ last ≤ d.se ∧ zigzag last = some z ∧ blkGet z d = 0#32 ∧
    ((rs = 0xF0#8 ∧ (zerosOf (between d.k last) d).length = 16 ∧ succWalk m src last d d₁ d₂ ∧
        d' = { d₂ with k := last + 1, r := 0, acState := .initial }) ∨
      ∃ (sign : Bool) (v : Coef) (d₃ : Decoder), rs &&& 0x0F#8 = 1#8 ∧ v = (if sign then 1#32 else -1#32) ∧
        (zerosOf (between d.k last) d).length = rs.toNat / 16 + 1 ∧ readBit src d₁ = .ok sign d₃ ∧
        succWalk m src last d d₃ d₂ ∧
        d' = { blkSet z (v <<< d.al) d₂ with k := last + 1, r := 0, acNext := v, acState := .initial })

/-- `n` such symbols. -/
def succPasses (m : RefineMode) (src : Nat → Option Byte) (table : HuffTable) : Nat → Decoder → Decoder → Prop
  | 0, d, d' => d = d'
  | n + 1, d, d' => ∃ d₁, succPass m src table d d₁ ∧ succPasses m src table n d₁ d'

/-- The ends of an AC_SUCC block of state `s` that is in state 0 at `d` and answers `ans` (44 R231, R233): k is past
SE; EOBr, which counts the block down at once; RUN/SIZE or ZRL with too few zeros left, or a size of 2 to 15; or
reading the symbol ends the scan (44 R223, R224). -/
def succEnds (s : State) (table : HuffTable) (d : Decoder) (ans : Result) : Prop :=
  let walk := succWalk s.params.refineMode s.streamByte d.se d
  let zeros := (zerosOf (between d.k d.se) d).length
  (d.se < d.k → ans = .next { s with dec := d }) ∧
  (d.k ≤ d.se → d.se ≤ 63 →
    (∀ (rs : Byte) (d₁ : Decoder), decodeHuffman s.streamByte table d = .ok rs d₁ →
      (∀ es d₂ d₃, rs &&& 0x0F#8 = 0#8 → rs ≠ 0xF0#8 → es.length = rs.toNat / 16 →
        delivers s.streamByte es d₁ d₂ → walk d₂ d₃ →
        ans = .next { s with dec := { d₃ with
          k := d.se + 1, r := es.length, eobrun := bitsValue es + 2 ^ es.length - 1
          acState := if bitsValue es + 2 ^ es.length - 1 = 0 then .initial else .eobRun } }) ∧
      (∀ (sign : Bool) d₂ d₃, rs &&& 0x0F#8 = 1#8 → zeros ≤ rs.toNat / 16 →
        readBit s.streamByte d₁ = .ok sign d₂ → walk d₂ d₃ →
        ans = .next (aborted .refineState { s with dec := { d₃ with
          k := d.se + 1, r := rs.toNat / 16 - zeros, acNext := if sign then 1#32 else -1#32
          acState := if zeros = rs.toNat / 16 then .setValue else .skipRun } })) ∧
      (∀ d₂, rs = 0xF0#8 → zeros < 16 → walk d₁ d₂ →
        ans = .next (aborted .refineState { s with dec := { d₂ with
          k := d.se + 1, r := 16 - zeros, acState := .skipZrl } })) ∧
      (1#8 < rs &&& 0x0F#8 →
        ans = .next (aborted .badRefineSize { s with dec := { d₁ with r := rs.toNat / 16 } }))) ∧
    (∀ (c : AbortCause) (d₁ : Decoder), decodeHuffman s.streamByte table d = .raise (.abort c) d₁ →
      ans = .next (aborted c { s with dec := d₁ })) ∧
    (∀ (m : Half) (d₁ : Decoder), decodeHuffman s.streamByte table d = .raise (.marker m) d₁ →
      ans = .next (scanEnded m { s with dec := d₁ })))

/-! A whole scan, in terms of the rows of its blocks. -/

/-- The mode of a scan and the row of its blocks, by SS and AH of SCAN_CFG (30 R97, 44 R213). -/
def scanRow (s : State) (f : Frame) (i : Instr) (m : ScanMode) : Prop :=
  (f.progressive = false ∧ m = .baseline ∧ ∃ a b, i = .baseline a b) ∨
  (f.progressive = true ∧
    ((s.scanCfg.extractLsb' 8 8 = 0#8 ∧ s.scanCfg.extractLsb' 24 4 = 0#4 ∧ m = .dcFirst ∧ i = .dcFirst) ∨
      (s.scanCfg.extractLsb' 8 8 = 0#8 ∧ s.scanCfg.extractLsb' 24 4 ≠ 0#4 ∧ m = .dcSucc ∧ i = .dcSucc) ∨
      (s.scanCfg.extractLsb' 8 8 ≠ 0#8 ∧ s.scanCfg.extractLsb' 24 4 = 0#4 ∧ m = .acFirst ∧ i = .acFirst) ∨
      (s.scanCfg.extractLsb' 8 8 ≠ 0#8 ∧ s.scanCfg.extractLsb' 24 4 ≠ 0#4 ∧ m = .acSucc ∧ i = .acSucc)))

/-- The decoder at the start of a scan, before its first interval (44 R212 to R216). -/
def scanStart (s : State) (f : Frame) (m : ScanMode) : Decoder :=
  let expected := mcusExpected f (bindComps s f)
  { s.dec with
    mode := some m
    ss := (s.scanCfg.extractLsb' 8 8).toNat, se := (s.scanCfg.extractLsb' 16 8).toNat
    ah := (s.scanCfg.extractLsb' 24 4).toNat, al := (s.scanCfg.extractLsb' 28 4).toNat
    scomps := bindComps s f, cur := s.streamPos.toNat, bitsCount := 0
    mcuCount := 0, mcuExpected := expected
    interval := if s.restartInterval = 0#16 then expected else s.restartInterval.toNat }

/-- The decoder `d` at the block (j, row, col): block (row, col) of scan component j (44 R218, R219). -/
def atBlock (b : Nat × Nat × Nat) (d : Decoder) : Decoder :=
  { d with blkComp := b.1, blkRow := b.2.1, blkCol := b.2.2 }

/-- Row `i`, run at each block of the list in turn, takes `d` to `d'`. -/
def blocksDecoded (i : Instr) (s : State) : List (Nat × Nat × Nat) → Decoder → Decoder → Prop
  | [], d, d' => d = d'
  | b :: rest, d, d' => ∃ d₁, exec i { s with dec := atBlock b d } = .next { s with dec := d₁ } ∧
      blocksDecoded i s rest d₁ d'

/-- Row `i` so takes `d` through `n` more MCUs, each counted when it is complete (44 R210, R226), to `d'`. -/
def mcusDecoded (i : Instr) (s : State) (f : Frame) : Nat → Decoder → Decoder → Prop
  | 0, d, d' => d = d'
  | n + 1, d, d' => ∃ d₁, blocksDecoded i s (mcuBlocks f d.scomps d.mcuCount) d d₁ ∧
      mcusDecoded i s f n { d₁ with mcuCount := d.mcuCount + 1 } d'

/-- The MCUs of the interval that begins at `d`: `ri`, or what is left of the scan (44 R210, R215). -/
def mcusInInterval (d : Decoder) : Nat := min d.interval (d.mcuExpected - d.mcuCount)

/-- `n` whole intervals, each followed by RSTn with MCUs left (44 R217, R220, R221), take `d` to `d'`. -/
def intervalsDecoded (i : Instr) (s : State) (f : Frame) : Nat → Decoder → Decoder → Prop
  | 0, d, d' => d = d'
  | n + 1, d, d' => ∃ (d₁ : Decoder) (lo : Byte),
      mcusDecoded i s f (mcusInInterval d) (startInterval d) d₁ ∧ d₁.mcuCount < d₁.mcuExpected ∧
      s.streamByte d₁.cur = some 0xFF#8 ∧ s.streamByte (d₁.cur + 1) = some lo ∧ 0xD0#8 ≤ lo ∧ lo ≤ 0xD7#8 ∧
      intervalsDecoded i s f n { d₁ with bitsCount := 0, cur := d₁.cur + 2 } d'

/-- The ends of a scan that has decoded an interval's MCUs at `d` and answers `ans` (44 R220 to R222): a byte of the
marker is missing, the two bytes are no marker, or they are one at which the scan does not go on. -/
def intervalEnds (s : State) (d : Decoder) (ans : Result) : Prop :=
  let stopped := scanEnded s.lastMarker { s with dec := { d with bitsCount := 0 } }
  (s.streamByte d.cur = none → ans = .next (failed .streamEos (BitVec.ofNat 32 d.cur) stopped)) ∧
  ∀ hi, s.streamByte d.cur = some hi →
    (s.streamByte (d.cur + 1) = none → ans = .next (failed .streamEos (BitVec.ofNat 32 (d.cur + 1)) stopped)) ∧
    ∀ lo, s.streamByte (d.cur + 1) = some lo →
      (hi ++ lo ≤ 0xFF00#16 → ans = .next (failed .markerNotFound (BitVec.ofNat 32 d.cur) stopped)) ∧
      (0xFF00#16 < hi ++ lo →
        ¬ (0xFFD0#16 ≤ hi ++ lo ∧ hi ++ lo ≤ 0xFFD7#16 ∧ d.mcuCount < d.mcuExpected) →
        ans = .next (scanEnded (hi ++ lo) { s with dec := { d with bitsCount := 0, cur := d.cur + 2 } }))

/-! The inverse DCT, written out. -/

/-- The pass over p0 to p7 as 45 R266 writes it, statement by statement; `column` makes the four differences of
45 R267. -/
def passByRule (column : Bool) (p : Nat → Coef) : List Coef :=
  let rnd : Coef := if column then 2048#32 else 128#32
  let sh : Nat := if column then 12 else 8
  if p 1 = 0#32 ∧ p 2 = 0#32 ∧ p 3 = 0#32 ∧ p 4 = 0#32 ∧ p 5 = 0#32 ∧ p 6 = 0#32 ∧ p 7 = 0#32 then
    let t := if column then (5793#32 * p 0 + 8192#32).sshiftRight 14 else (5793#32 * p 0 + 512#32).sshiftRight 10
    List.replicate 8 t
  else
    let v0 := (5793#32 * p 0 + rnd).sshiftRight sh
    let v1 := (5793#32 * p 4 + rnd).sshiftRight sh
    let v2 := p 2
    let v3 := p 6
    let v4 := (2896#32 * (p 1 - p 7) + rnd).sshiftRight sh
    let v7 := (2896#32 * (p 1 + p 7) + rnd).sshiftRight sh
    let v5 := if column then p 3 else p 3 <<< 4
    let v6 := if column then p 5 else p 5 <<< 4
    let t := (v0 - v1 + 1#32).sshiftRight 1
    let v0 := (v0 + v1 + 1#32).sshiftRight 1
    let v1 := t
    let t := (v2 * 3784#32 + v3 * 1567#32 + rnd).sshiftRight sh
    let v2 := (v2 * 1567#32 - v3 * 3784#32 + rnd).sshiftRight sh
    let v3 := t
    let t := (v4 - v6 + 1#32).sshiftRight 1
    let v4 := (v4 + v6 + 1#32).sshiftRight 1
    let v6 := t
    let t := (v7 + v5 + 1#32).sshiftRight 1
    let v5 := (v7 - v5 + 1#32).sshiftRight 1
    let v7 := t
    let t := (v0 - v3 + 1#32).sshiftRight 1
    let v0 := (v0 + v3 + 1#32).sshiftRight 1
    let v3 := t
    let t := (v1 - v2 + 1#32).sshiftRight 1
    let v1 := (v1 + v2 + 1#32).sshiftRight 1
    let v2 := t
    let t := (v4 * 2276#32 + v7 * 3406#32 + 2048#32).sshiftRight 12
    let v4 := (v4 * 3406#32 - v7 * 2276#32 + 2048#32).sshiftRight 12
    let v7 := t
    let t := (v5 * 799#32 + v6 * 4017#32 + 2048#32).sshiftRight 12
    let v5 := (v5 * 4017#32 - v6 * 799#32 + 2048#32).sshiftRight 12
    let v6 := t
    [v0 + v7, v1 + v6, v2 + v5, v3 + v4, v3 - v4, v2 - v5, v1 - v6, v0 - v7]

/-- IDCT8x8 as 45 R264 and R266 to R269 write it: the sample at row y, column x. -/
def idctByRules (blk : Nat → Coef) (q : QTable) (y x : Nat) : Byte :=
  let row : Nat → List Coef := fun r =>
    passByRule false fun j => blk (8 * r + j) * ((q[8 * r + j]?).getD 0#16).setWidth 32
  let col : Nat → List Coef := fun c => passByRule true fun j => (row j).getD c 0#32
  let s : Int := 128 + (((col x).getD y 0#32 + 8#32).sshiftRight 4).toInt
  if s < 0 then 0#8 else if 255 < s then 255#8 else BitVec.ofInt 8 s

/-- clamp8 of an exact rational (46 R296). -/
def clampRat (q : ℚ) : Byte := if q < 0 then 0#8 else if 255 < q then 255#8 else BitVec.ofInt 8 ⌊q⌋

/-- The sample of component `i` for the pixel a colour row works on. -/
def pixelSample (s : State) (f : Frame) (planes : List Plane) (i : Nat) : Option Byte :=
  sample s.params.colorArith f planes (outW s) (outH s) s.px s.py i

/-- The state after a colour row has emitted its event (46 R294). -/
def emitted (e : Event) (s : State) : State :=
  { s with sink := s.sink ++ [e]
           px := if s.px + 1 < outW s then s.px + 1 else 0
           py := if s.px + 1 < outW s then s.py else s.py + 1 }

/-- The dispatch table (30 R99), a row for each (NCOMP, source colour space, OUT_CS) it lists: the row of the
opcode table and the conversion. -/
def dispatchTable : List (Nat × BitVec 2 × BitVec 2 × Instr × Conversion) :=
  [(1, 0#2, 0#2, .color1cYCbCrOutYCbCr, .grayYcc), (1, 0#2, 1#2, .color1cYCbCrOutRgb, .grayRgb),
    (1, 2#2, 0#2, .color1cCmykOutYCbCr, .grayYcc), (1, 2#2, 1#2, .color1cCmykOutRgb, .grayRgb),
    (1, 3#2, 0#2, .color1cYcckOutYCbCr, .grayYcc), (1, 3#2, 1#2, .color1cYcckOutRgb, .grayRgb)] ++
  [(2, 0#2, 0#2, .color2cYCbCrOutYCbCr, .dual), (2, 0#2, 1#2, .color2cYCbCrOutRgb, .dual),
    (2, 2#2, 0#2, .color2cCmykOutYCbCr, .dual), (2, 2#2, 1#2, .color2cCmykOutRgb, .dual),
    (2, 3#2, 0#2, .color2cYcckOutYCbCr, .dual), (2, 3#2, 1#2, .color2cYcckOutRgb, .dual)] ++
  [(3, 0#2, 0#2, .color3cYCbCrOutYCbCr, .yccPass), (3, 0#2, 1#2, .color3cYCbCrOutRgb, .yccRgb),
    (4, 2#2, 0#2, .color4cCmykOutYCbCr, .cmykRgb), (4, 2#2, 1#2, .color4cCmykOutRgb, .cmykRgb),
    (4, 3#2, 0#2, .color4cYcckOutYCbCr, .ycckRgb), (4, 3#2, 1#2, .color4cYcckOutRgb, .ycckRgb)]

/-- The state in which a colour row works on pixel (x, y). -/
def atPixel (x y : Nat) (s : State) : State := { s with px := x, py := y }

/-- A scan has recorded its mode: in the state, and as SCAN_INFO.LAST_MODE shows it (10 R46). -/
def showsMode (t : State) (m : ScanMode) (code : BitVec 3) : Prop :=
  t.dec.mode = some m ∧ (readReg .scanInfo t).extractLsb' 0 3 = code

/-- A host read of the register at a byte offset (10 R21). -/
def readAt (offset : Nat) (s : State) : Word := readReg (regOfSlot (slotOf offset)) s

/-- A host write of `w` to the register at a byte offset leaves `t`, in which the register reads the
implemented bits of `w` (10 R21). -/
def stores (offset : Nat) (mask w : Word) (s t : State) : Prop :=
  busWrite (slotOf offset) w s = t ∧ readAt offset t = w &&& mask

/-- Check 3 of 44 R211 fails for the scan component that SCAN_COMPj names. -/
def scanCompRefused (s : State) (f : Frame) (j : Fin 4) : Prop :=
  (∀ c ∈ f.comps, c.cid ≠ scanCid (fourGet s.scanComp j)) ∨
  (∃ j' : Fin 4, j' < j ∧ scanCid (fourGet s.scanComp j') = scanCid (fourGet s.scanComp j)) ∨
  3 < scanTd (fourGet s.scanComp j) ∨ 3 < scanTa (fourGet s.scanComp j) ∨
  ((f.progressive = false ∨ (cfgSs s = 0 ∧ cfgAh s = 0)) ∧
    storeGet (scanTd (fourGet s.scanComp j)) s.dcTab = none) ∨
  ((f.progressive = false ∨ cfgSs s ≠ 0) ∧ storeGet (scanTa (fourGet s.scanComp j)) s.acTab = none)

/-- A check of 46 R291 fails for a frame of `n` components. -/
def colorRefused (s : State) (n : Nat) : Prop :=
  1#2 < outCs s ∨ (s.srcCsCfg.getLsbD 0 = true ∧ s.srcCsCfg.extractLsb' 4 2 = 1#2) ∨
  (n = 3 ∧ srcCs s ≠ 0#2) ∨ (n = 4 ∧ srcCs s ≠ 2#2 ∧ srcCs s ≠ 3#2)

end Sys2Proof.Safety
end

