-- ==== Sys2Proof/Certificates/Slice0/Obligations.lean ====
section
/-! DEFINITION. The statements for the provers, one definition each. -/

open Sys2Proof Sys2Proof.Machine Sys2Proof.Safety

/-! Encoding, and the step that runs an instruction. -/

/-- Words written out from the tables of 30 R83, R88, R89, R91, R92, R97, R99 and 30 R86. -/
def Obligations.SpecWordsDecodeAsListed : Prop :=
  decode .cmd 5#32 = .ok .decodeScan ∧
  decode .cmd 0x100#32 = .ok (.illegalCmdOther 0x100#32) ∧
  decode .dqtPqTq 0x13#32 = .ok (.dqtGroup16 3#4) ∧
  decode .dhtTcTh 0x12#32 = .ok (.dhtGroupAc 2#2) ∧
  decode .scanMode 6#32 = .ok .dcSucc ∧
  decode .dcSymbol 0x0B#32 = .ok (.dcDiff 11#4) ∧
  decode .acSymbol 0xF0#32 = .ok .acZrl ∧
  decode .acSymbol 0x21#32 = .ok (.acRunSize1 2#4) ∧
  decode .dcSuccBit 1#32 = .ok (.dcSuccBit true) ∧
  decode .acSuccBit 0#32 = .ok (.acSuccCorrectionBit false) ∧
  decodeMarkerBytes 0xFF#8 0xDA#8 = some .sos ∧
  decode .colorDispatch 0x31#32 = .ok .color3cYCbCrOutRgb

/-- Decoding the encoding of a well-formed instruction gives it back. -/
def Obligations.EncodedInstructionsDecodeToThemselves : Prop :=
  ∀ i : Instr, i.wf = true → decode (encode i).1 (encode i).2 = .ok i

/-- Every word a format's decoder accepts is the encoding of the well-formed instruction it gives. -/
def Obligations.DecodedWordsEncodeBack : Prop :=
  ∀ (f : Format) (w : Word) (i : Instr), decode f w = .ok i → i.wf = true ∧ encode i = (f, w)

/-- A step runs the decoded instruction: the pending command (40 R121) where the gate of 40 R120 lets it
through, also at a turn the host leaves to the core (20 R70), and a latched symbol (log 3). A host move before it is
made (20 R70, R72, 40 R126, R130): a register write, a register read, whose value goes to the host, and a write of a
stream byte, which the model refuses while BUSY is 1 (log 12). With nothing to do a step changes nothing (log 2). -/
def Obligations.StepRunsTheDecodedInstruction : Prop :=
  (∀ s, commandNext s → gateDiscards s = false → step s = exec (decodeCmd s.pending) s) ∧
  (∀ s rest, s.latch = none → s.agenda = .coreTurn :: rest → s.busy = true → gateDiscards s = false →
    step s = exec (decodeCmd s.pending) { s with agenda := rest }) ∧
  (∀ s l i, s.latch = some l → decode l.fmt l.bits = .ok i → step s = exec i { s with latch := none }) ∧
  (∀ s rest, s.latch = none →
    (∀ slot w, s.agenda = .write slot w :: rest → step s = .next (busWrite slot w { s with agenda := rest })) ∧
    (∀ slot, s.agenda = .read slot :: rest →
      step s = .next { s with agenda := rest, readLog := s.readLog ++ [readReg (regOfSlot slot) s] }) ∧
    (∀ a b, s.agenda = .streamWrite a b :: rest →
      (s.busy = false → Memory.wf s.mem → ∃ m, step s = .next { s with agenda := rest, mem := m } ∧
        Memory.read m a.toNat = b ∧ ∀ x, x ≠ a.toNat → Memory.read m x = Memory.read s.mem x) ∧
      (s.busy = true → step s = .refused .hostWritesStreamWhileBusy)) ∧
    (s.agenda = .coreTurn :: rest → s.busy = false → step s = .next { s with agenda := rest }) ∧
    (s.agenda = [] → s.busy = false → step s = .next s))

/-! Invariants. -/

/-- The invariant holds of the state after reset. -/
def Obligations.ResetIsWellFormed : Prop := StateInv State.reset

/-- Stream memory stays canonical and the reserved register bits stay 0 (10 R21). -/
def Obligations.StepsKeepStorageForm : Prop :=
  ∀ s t, storageInv s → step s = .next t → storageInv t

/-- The bit reader, the latched frame, its coefficient memory and the built lines stay well formed. -/
def Obligations.StepsKeepTheFrameWellFormed : Prop :=
  ∀ s t, frameInv s → step s = .next t → frameInv t

/-- The table stores keep their slots, and every Huffman table stays a prefix code (10 R52, R53). -/
def Obligations.StepsKeepTheTablesPrefixCodes : Prop :=
  ∀ s t, tablesInv s → step s = .next t → tablesInv t

/-- The ghost flags remember every error, abort and discard, and are never cleared (70 R359). -/
def Obligations.GhostFlagsRememberFaultsAborts : Prop :=
  ∀ s t, step s = .next t →
    (ghostsInv s → ghostsInv t) ∧
    (s.faultSeen = true → t.faultSeen = true) ∧ (s.abortSeen = true → t.abortSeen = true) ∧
    (s.discardSeen = true → t.discardSeen = true)

/-- From a well-formed state no command stops the machine: every command step answers a next state
(40 R129, 43 R196, 46 R295). -/
def Obligations.WellFormedCommandsNeverStop : Prop :=
  ∀ s, StateInv s → commandNext s → ∃ t, step s = .next t

/-! The command interface. -/

/-- 10 R59: the reset values, after a power-on reset and after SOFT_RESET. -/
def Obligations.ResetRegistersReadAsTabled : Prop :=
  readsAsReset State.reset ∧
  ∀ s w, s.busy = false → w.getLsbD 1 = true → readsAsReset (busWrite (slotOf 0x004) w s)

/-- 40 R123. -/
def Obligations.NopOnlyEndsItsStep : Prop :=
  ∀ s, exec .nop s = .next (ended s) ∧ (commandNext s → s.pending = 0#32 → step s = .next (ended s))

/-- 40 R124: CLEAR's writes, that CLEAR twice equals CLEAR once, that it runs in the error state, and that
no other instruction leaves the error state. That the EOBRUN register and AC_STATE are 0 after it is the
model's deduction from 10 R46, R48 and R55 (log 15). -/
def Obligations.ClearEmptiesTheCore : Prop :=
  (∀ s, ∃ t, exec .clear s = .next t ∧ exec .clear t = .next t ∧
    t = { s with
      dec := { s.dec with frame := none, mode := none, eobrun := 0, acState := .initial, acNext := 0#32, mcuCount := 0 }
      lines := none, qt := [], dcTab := [], acTab := []
      eobrunReg := 0#16, acStateReg := .initial, lastMarker := 0#16, errPos := 0#32
      errCode := .none, abortCause := .none
      frameCfg := 0#32, frameSize := 0#32, compCfg := ⟨0#32, 0#32, 0#32, 0#32⟩
      scanCfg := 0#32, scanComp := ⟨0#32, 0#32, 0#32, 0#32⟩, restartInterval := 0#16
      srcCsCfg := 0#32, outCfg := 0#32, outSize := 0#32
      busy := false, done := true }) ∧
  (∀ s, commandNext s → s.pending = 1#32 → step s = exec .clear s) ∧
  (∀ i s t, exec i s = .next t → s.errCode ≠ .none → t.errCode = .none → i = .clear)

/-- 40 R128: every command word from 8 up, by the step, and the two rows by themselves. -/
def Obligations.IllegalWordsRaiseIllegalCmd : Prop :=
  (∀ op s, exec (.illegalCmdLow op) s = .next (failed .illegalCmd s.streamPos s)) ∧
  (∀ w s, exec (.illegalCmdOther w) s = .next (failed .illegalCmd s.streamPos s)) ∧
  (∀ s, commandNext s → 8#32 ≤ s.pending → s.errCode = .none →
    step s = .next (failed .illegalCmd s.streamPos s)) ∧
  (∀ s, commandNext s → 8#32 ≤ s.pending → s.errCode ≠ .none →
    step s = .next { ended s with overrun := true, discardSeen := true })

/-- 40 R120: accepting a command word, and the error-state gate. -/
def Obligations.ErrorStateDiscardsCommands : Prop :=
  (∀ s w, s.busy = false → busWrite (slotOf 0x00C) w s = { s with busy := true, pending := w }) ∧
  (∀ s, commandNext s → s.errCode ≠ .none → s.pending ≠ 0#32 → s.pending ≠ 1#32 →
    step s = .next { s with overrun := true, busy := false, done := true, discardSeen := true }) ∧
  (∀ s, commandNext s → s.errCode ≠ .none → s.pending = 0#32 → step s = exec .nop s) ∧
  (∀ s, commandNext s → s.errCode ≠ .none → s.pending = 1#32 → step s = exec .clear s)

/-- 40 R126: a write while BUSY only sets OVERRUN; a read while BUSY gives the value from before the
command. -/
def Obligations.WritesWhileBusyAreLost : Prop :=
  ∀ s slot rest, s.busy = true → s.latch = none →
    (∀ w, s.agenda = .write slot w :: rest →
      step s = .next { s with agenda := rest, overrun := true, discardSeen := true }) ∧
    (s.agenda = .read slot :: rest →
      step s = .next { s with agenda := rest, readLog := s.readLog ++ [readReg (regOfSlot slot) s] })

/-- The register window (10 R21 to R49, 20 R69): every view shows its field, with the codes of 30 R97, 60 R321
and R322 spelled out; every RW register reads back the implemented bits written, and the write changes nothing
else; a STATUS write clears its three flags only; read-only registers and reserved offsets ignore writes. -/
def Obligations.RegistersShowAndStoreTheirFields : Prop :=
  (∀ s, let w := readAt 0x008 s
    w.getLsbD 0 = s.busy ∧ w.getLsbD 1 = s.done ∧ w.getLsbD 2 = (s.errCode != .none) ∧
    w.getLsbD 3 = s.scanAborted ∧ w.getLsbD 4 = s.overrun ∧ w.getLsbD 5 = s.dec.frame.isSome ∧
    w.getLsbD 6 = s.lines.isSome ∧ w.getLsbD 7 = false ∧ w.extractLsb' 24 8 = 0#8 ∧
    (s.errCode, w.extractLsb' 8 8) ∈ ([(.none, 0#8), (.illegalCmd, 1#8), (.sequence, 2#8), (.streamEos, 3#8),
      (.qtPrecision, 4#8), (.qtRedefined, 5#8), (.htClass, 6#8), (.htInvalid, 7#8), (.frameParam, 8#8),
      (.frameTooLarge, 9#8), (.scanParam, 10#8), (.markerNotFound, 11#8), (.qtMissing, 12#8),
      (.colorMode, 13#8)] : List (ErrCode × BitVec 8)) ∧
    (s.abortCause, w.extractLsb' 16 8) ∈ ([(.none, 0#8), (.eos, 1#8), (.badCode, 2#8), (.coefRange, 3#8),
      (.badDcCategory, 4#8), (.badRefineSize, 5#8), (.refineState, 6#8)] : List (AbortCause × BitVec 8))) ∧
  (∀ s (t : Nat), t < 16 → (readAt 0x08C s).getLsbD t = (storeGet t s.qt).isSome) ∧
  (∀ s (t : Nat), t < 4 → (readAt 0x08C s).getLsbD (16 + t) = (storeGet t s.dcTab).isSome ∧
    (readAt 0x08C s).getLsbD (20 + t) = (storeGet t s.acTab).isSome) ∧
  (∀ s, (readAt 0x08C s).extractLsb' 24 8 = 0#8) ∧
  (∀ s, s.dec.frame = none → readAt 0x038 s = 0#32 ∧ readAt 0x03C s = 0#32 ∧ readAt 0x040 s = 0#32 ∧
    ∀ i : Fin 4, readAt (0x044 + 4 * i.val) s = 0#32 ∧ readAt (0x054 + 4 * i.val) s = 0#32) ∧
  (∀ s f, s.dec.frame = some f →
    readAt 0x038 s = BitVec.ofNat 16 f.scanLines ++ BitVec.ofNat 16 f.samplesPerLine ∧
    readAt 0x03C s = BitVec.ofNat 16 f.mcusPerColumn ++ BitVec.ofNat 16 f.mcusPerLine ∧
    (let w := readAt 0x040 s;
      w.extractLsb' 0 4 = BitVec.ofNat 4 f.maxH ∧ w.extractLsb' 4 4 = BitVec.ofNat 4 f.maxV ∧
      w.extractLsb' 8 8 = f.maxCid ∧ w.extractLsb' 16 3 = BitVec.ofNat 3 f.comps.length ∧
      w.extractLsb' 19 5 = 0#5 ∧ w.getLsbD 24 = f.progressive ∧ w.extractLsb' 25 7 = 0#7) ∧
    (∀ (i : Fin 4) (c : Comp), f.comps[i.val]? = some c →
      readAt (0x044 + 4 * i.val) s = BitVec.ofNat 16 c.bpc ++ BitVec.ofNat 16 c.bpl ∧
      readAt (0x054 + 4 * i.val) s = BitVec.ofNat 16 c.bpcm ++ BitVec.ofNat 16 c.bplm) ∧
    (∀ i : Fin 4, f.comps.length ≤ i.val →
      readAt (0x044 + 4 * i.val) s = 0#32 ∧ readAt (0x054 + 4 * i.val) s = 0#32)) ∧
  (∀ f, frameWf f → f.mcusPerLine < 65536 ∧ f.mcusPerColumn < 65536 ∧ f.maxH ≤ 4 ∧ f.maxV ≤ 4 ∧
    ∀ c ∈ f.comps, c.bpl ≤ 32768 ∧ c.bpc ≤ 32768 ∧ c.bplm ≤ 32768 ∧ c.bpcm ≤ 32768) ∧
  (∀ s (n : Nat), (∀ f, s.dec.frame = some f → n = f.comps.length) →
    (s.dec.frame = none → n = (s.frameCfg.extractLsb' 16 3).toNat) →
    readAt 0x088 s = (if s.srcCsCfg.getLsbD 0 then s.srcCsCfg.extractLsb' 4 2
      else if n = 4 then 2#2 else 0#2).setWidth 32) ∧
  (∀ s, let w := readAt 0x090 s
    (s.dec.mode, w.extractLsb' 0 3) ∈ ([(some .baseline, 0#3), (some .dcFirst, 1#3), (some .dcSucc, 2#3),
      (some .acFirst, 3#3), (some .acSucc, 4#3), (none, 7#3)] : List (Option ScanMode × BitVec 3)) ∧
    (s.acStateReg, w.extractLsb' 4 3) ∈ ([(.initial, 0#3), (.skipZrl, 1#3), (.skipRun, 2#3), (.setValue, 3#3),
      (.eobRun, 4#3)] : List (AcState × BitVec 3)) ∧
    w.getLsbD 3 = false ∧ w.extractLsb' 7 25 = 0#25) ∧
  (∀ s, readAt 0x094 s = BitVec.ofNat 32 s.dec.mcuCount ∧ readAt 0x098 s = s.eobrunReg.setWidth 32 ∧
    readAt 0x018 s = s.lastMarker.setWidth 32 ∧ readAt 0x01C s = s.errPos ∧ readAt 0x000 s = 0x4A444331#32 ∧
    readAt 0x00C s = 0#32) ∧
  (∀ s w, s.busy = false →
    busWrite (slotOf 0x008) w s = { s with
      done := s.done && !w.getLsbD 1, scanAborted := s.scanAborted && !w.getLsbD 3
      overrun := s.overrun && !w.getLsbD 4 } ∧
    (w.getLsbD 1 = false → stores 0x004 1#32 w s { s with irqEn := w.getLsbD 0 }) ∧
    stores 0x010 0xFFFFFFFF#32 w s { s with streamLen := w } ∧
    stores 0x014 0xFFFFFFFF#32 w s { s with streamPos := w } ∧
    stores 0x020 0x0007FF01#32 w s { s with frameCfg := w &&& 0x0007FF01#32 } ∧
    stores 0x024 0xFFFFFFFF#32 w s { s with frameSize := w } ∧
    stores 0x064 0xFFFFFF07#32 w s { s with scanCfg := w &&& 0xFFFFFF07#32 } ∧
    stores 0x078 0x0000FFFF#32 w s { s with restartInterval := w.extractLsb' 0 16 } ∧
    stores 0x07C 0x00000031#32 w s { s with srcCsCfg := w &&& 0x00000031#32 } ∧
    stores 0x080 0x00000003#32 w s { s with outCfg := w &&& 0x00000003#32 } ∧
    stores 0x084 0xFFFFFFFF#32 w s { s with outSize := w } ∧
    ∀ i : Fin 4, ∃ cs ss : Four Word,
      stores (0x028 + 4 * i.val) 0x000FFFFF#32 w s { s with compCfg := cs } ∧
      stores (0x068 + 4 * i.val) 0x0000FFFF#32 w s { s with scanComp := ss } ∧
      ∀ j : Fin 4, j ≠ i → fourGet cs j = fourGet s.compCfg j ∧ fourGet ss j = fourGet s.scanComp j) ∧
  (∀ s w, s.busy = false →
    (∀ o ∈ [0x000, 0x018, 0x01C, 0x038, 0x03C, 0x040, 0x044, 0x048, 0x04C, 0x050, 0x054, 0x058, 0x05C, 0x060,
      0x088, 0x08C, 0x090, 0x094, 0x098], busWrite (slotOf o) w s = s) ∧
    (∀ slot : BitVec 6, 39#6 ≤ slot → busWrite slot w s = s ∧ readReg (regOfSlot slot) s = 0#32))

/-- 40 R121, 60 R327: every command step, however it ends, leaves BUSY 0 and DONE 1, so the interrupt line
is IRQ_EN after it. -/
def Obligations.EveryCommandStepRaisesDone : Prop :=
  ∀ s t, commandNext s → step s = .next t →
    t.busy = false ∧ t.done = true ∧ t.irqEn = s.irqEn ∧ t.irq = s.irqEn

/-! Frames over all instructions. -/

/-- No instruction writes stream memory (20 R61), a parameter, CTRL, STREAM_LEN, the pending word or what
belongs to the host, and none but CLEAR writes a configuration register. -/
def Obligations.InstructionsLeaveHostRegisters : Prop :=
  ∀ i s t, exec i s = .next t →
    (∀ a, Memory.read t.mem a = Memory.read s.mem a) ∧ t.mem = s.mem ∧
    t.params = s.params ∧ t.irqEn = s.irqEn ∧ t.streamLen = s.streamLen ∧ t.pending = s.pending ∧
    t.agenda = s.agenda ∧ t.readLog = s.readLog ∧ t.latch = s.latch ∧
    (i ≠ .clear →
      t.frameCfg = s.frameCfg ∧ t.frameSize = s.frameSize ∧ t.compCfg = s.compCfg ∧ t.scanCfg = s.scanCfg ∧
      t.scanComp = s.scanComp ∧ t.restartInterval = s.restartInterval ∧ t.srcCsCfg = s.srcCsCfg ∧
      t.outCfg = s.outCfg ∧ t.outSize = s.outSize)

/-- Which instructions write the tables, the lines, the latched frame record and the sink. The record, but for
predictors and coefficients, changes by SET_FRAME and CLEAR only, and among the host's writes by SOFT_RESET only
(10 R50, 43 R198). -/
def Obligations.InstructionsWriteOnlyTheirStores : Prop :=
  (∀ slot w s, ¬ (slot = slotOf 0x004 ∧ w.getLsbD 1 = true) → (busWrite slot w s).dec = s.dec) ∧
  ∀ i s t, exec i s = .next t →
    (i ≠ .clear → i ≠ .loadDqt → (∀ tq, i ≠ .dqtGroup8 tq) → (∀ tq, i ≠ .dqtGroup16 tq) → t.qt = s.qt) ∧
    (i ≠ .clear → i ≠ .loadDht → (∀ th, i ≠ .dhtGroupDc th) → t.dcTab = s.dcTab) ∧
    (i ≠ .clear → i ≠ .loadDht → (∀ th, i ≠ .dhtGroupAc th) → t.acTab = s.acTab) ∧
    (i ≠ .clear → i ≠ .buildComponents → t.lines = s.lines) ∧
    (i ≠ .clear → i ≠ .setFrame →
      t.dec.frame.isSome = s.dec.frame.isSome ∧ sameRecord s.dec.frame t.dec.frame) ∧
    (∃ new, t.sink = s.sink ++ new) ∧
    (i ≠ .colorConvert → (encode i).1 ≠ .colorDispatch → t.sink = s.sink ∧ t.px = s.px ∧ t.py = s.py)

/-- Which instructions write the scan's state and its progress registers. An instruction that raises a
fatal error writes ERR_CODE and ERR_POS together; no other instruction but CLEAR writes either. -/
def Obligations.InstructionsWriteOnlyTheirProgress : Prop :=
  ∀ i s t, exec i s = .next t →
    ((t.errCode = s.errCode ∧ t.errPos = s.errPos ∧ t.faultSeen = s.faultSeen) ∨ i = .clear ∨
      (t.errCode ≠ .none ∧ t.faultSeen = true)) ∧
    (t.overrun = s.overrun ∧ t.discardSeen = s.discardSeen) ∧
    (i ≠ .clear → i ≠ .decodeScan → (encode i).1 ≠ .scanMode → (encode i).1 ≠ .dcSymbol →
      (encode i).1 ≠ .acSymbol → (encode i).1 ≠ .acSuccBit → (encode i).1 ≠ .marker →
      t.lastMarker = s.lastMarker ∧ t.eobrunReg = s.eobrunReg ∧ t.acStateReg = s.acStateReg ∧
      t.scanAborted = s.scanAborted ∧ t.abortCause = s.abortCause ∧
      ((encode i).1 ≠ .dcSuccBit → i ≠ .setFrame → t.dec = s.dec)) ∧
    (i = .nop ∨ i = .clear ∨ i = .setFrame ∨ i = .buildComponents ∨ i = .colorConvert ∨
      (∃ op, i = .illegalCmdLow op) ∨ (∃ w, i = .illegalCmdOther w) ∨ (encode i).1 = .colorDispatch →
      t.streamPos = s.streamPos)

/-- 20 R61: the bytes of S at and beyond STREAM_LEN never affect a result. -/
def Obligations.BytesBeyondStreamLenNeverMatter : Prop :=
  ∀ i s t m, (∀ a, a < s.streamLen.toNat → Memory.read m a = Memory.read s.mem a) →
    exec i s = .next t → exec i { s with mem := m } = .next { t with mem := m }

/-! Tables. -/

/-- LOAD_DQT and LOAD_DHT run the group that the byte at STREAM_POS decodes to (45 R260, 42 R161). -/
def Obligations.TableCommandsRunTheirGroup : Prop :=
  (∀ s b, s.streamByte s.streamPos.toNat = some b →
    exec .loadDqt s = exec (decodeDqt b) s ∧ exec .loadDht s = exec (decodeDht b) s) ∧
  (∀ s, s.streamLen ≤ s.streamPos →
    exec .loadDqt s = .next (failed .streamEos s.streamPos s) ∧
    exec .loadDht s = .next (failed .streamEos s.streamPos s))

/-- 45 R261: entry k of a group, one byte or two big-endian bytes, is stored at natural index Z[k]; and the 64
values of Z as 45 R263 lists them, on which the statements about scans rest too. That a group's row runs by itself,
whatever byte stands at STREAM_POS, is the model's choice (logs 3 and 25). -/
def Obligations.DqtGroupsFillTheirSlot : Prop :=
  (∀ k, zigzag k = ([0, 1, 8, 16, 9, 2, 3, 10, 17, 24, 32, 25, 18, 11, 4, 5] ++
    [12, 19, 26, 33, 40, 48, 41, 34, 27, 20, 13, 6, 7, 14, 21, 28] ++
    [35, 42, 49, 56, 57, 50, 43, 36, 29, 22, 15, 23, 30, 37, 44, 51] ++
    [58, 59, 52, 45, 38, 31, 39, 46, 53, 60, 61, 54, 47, 55, 62, 63])[k]?) ∧
  ∀ s (tq : BitVec 4), storeGet tq.toNat s.qt = none →
    (s.streamPos.toNat + 65 ≤ s.streamLen.toNat → ∃ t q,
      exec (.dqtGroup8 tq) s = .next t ∧
      (s.streamByte s.streamPos.toNat = some (nibbles 0#4 tq) → exec .loadDqt s = .next t) ∧
      t = ended { s with qt := storePut tq.toNat q s.qt, streamPos := s.streamPos + 65#32 } ∧
      ∀ k n, zigzag k = some n →
        q[n]? = some ((Memory.read s.mem (s.streamPos.toNat + 1 + k)).setWidth 16)) ∧
    (s.streamPos.toNat + 129 ≤ s.streamLen.toNat → ∃ t q,
      exec (.dqtGroup16 tq) s = .next t ∧
      (s.streamByte s.streamPos.toNat = some (nibbles 1#4 tq) → exec .loadDqt s = .next t) ∧
      t = ended { s with qt := storePut tq.toNat q s.qt, streamPos := s.streamPos + 129#32 } ∧
      ∀ k n, zigzag k = some n →
        q[n]? = some (Memory.read s.mem (s.streamPos.toNat + 1 + 2 * k) ++
          Memory.read s.mem (s.streamPos.toNat + 2 + 2 * k)))

/-- 45 R262: redefining a slot is refused, and only CLEAR and reset empty one. That a group's row refuses by itself,
whatever byte or none stands at STREAM_POS, is the model's choice (logs 3 and 25). -/
def Obligations.QuantTablesAreNeverReassigned : Prop :=
  (∀ s (tq : BitVec 4), (storeGet tq.toNat s.qt).isSome = true →
    exec (.dqtGroup8 tq) s = .next (failed .qtRedefined s.streamPos s) ∧
    exec (.dqtGroup16 tq) s = .next (failed .qtRedefined s.streamPos s) ∧
    (s.streamByte s.streamPos.toNat = some (nibbles 0#4 tq) ∨
      s.streamByte s.streamPos.toNat = some (nibbles 1#4 tq) →
      exec .loadDqt s = .next (failed .qtRedefined s.streamPos s))) ∧
  (∀ i s t k q, exec i s = .next t → i ≠ .clear → storeGet k s.qt = some q → storeGet k t.qt = some q) ∧
  (∀ slot w s, ¬ (slot = slotOf 0x004 ∧ w.getLsbD 1 = true) → (busWrite slot w s).qt = s.qt)

/-- 45 R260, 30 R101, 60 R323: the other errors of a DQT group, with their positions, as the group's rows give them
by themselves, whatever byte or none stands at STREAM_POS (logs 3 and 25). -/
def Obligations.BadDqtGroupsChangeNothing : Prop :=
  (∀ s pq tq, exec (.dqtReserved2 pq tq) s = .next (failed .qtPrecision s.streamPos s) ∧
    exec (.dqtReserved4 pq tq) s = .next (failed .qtPrecision s.streamPos s) ∧
    exec (.dqtReserved8 pq tq) s = .next (failed .qtPrecision s.streamPos s)) ∧
  (∀ s (tq : BitVec 4), storeGet tq.toNat s.qt = none → s.streamPos.toNat < s.streamLen.toNat →
    (s.streamLen.toNat < s.streamPos.toNat + 65 →
      exec (.dqtGroup8 tq) s = .next (failed .streamEos s.streamLen s)) ∧
    (s.streamLen.toNat < s.streamPos.toNat + 129 →
      exec (.dqtGroup16 tq) s = .next (failed .streamEos s.streamLen s)))

/-- 42 R161, R164, R165: a DHT group replaces its slot with the table of its counts and values. That a group's row
runs by itself, whatever byte stands at STREAM_POS, is the model's choice (logs 3 and 25). -/
def Obligations.DhtGroupsReplaceTheirSlot : Prop :=
  ∀ s (th : BitVec 2) (counts : List Nat) (vals : List Byte) (table : HuffTable),
    counts = (List.range 16).map (fun i => (Memory.read s.mem (s.streamPos.toNat + 1 + i)).toNat) →
    counts.sum ≤ s.params.htMaxSymbols →
    vals = (List.range counts.sum).map (fun j => Memory.read s.mem (s.streamPos.toNat + 17 + j)) →
    s.streamPos.toNat + 17 + counts.sum ≤ s.streamLen.toNat →
    buildCanonical counts vals = some table →
    (∃ t, exec (.dhtGroupDc th) s = .next t ∧
      (s.streamByte s.streamPos.toNat = some (nibbles 0#4 (th.setWidth 4)) → exec .loadDht s = .next t) ∧
      t = ended { s with
        dcTab := storePut th.toNat table s.dcTab
        streamPos := BitVec.ofNat 32 (s.streamPos.toNat + 17 + counts.sum) }) ∧
    (∃ t, exec (.dhtGroupAc th) s = .next t ∧
      (s.streamByte s.streamPos.toNat = some (nibbles 1#4 (th.setWidth 4)) → exec .loadDht s = .next t) ∧
      t = ended { s with
        acTab := storePut th.toNat table s.acTab
        streamPos := BitVec.ofNat 32 (s.streamPos.toNat + 17 + counts.sum) })

/-- 42 R161, R163, R164, 60 R323: the errors of a DHT group, with their positions, as the group's rows give them by
themselves, whatever byte or none stands at STREAM_POS (logs 3 and 25). -/
def Obligations.BadDhtGroupsChangeNothing : Prop :=
  (∀ s tc th, exec (.dhtReserved tc th) s = .next (failed .htClass s.streamPos s)) ∧
  (∀ s (th : BitVec 2) (counts : List Nat) (vals : List Byte),
    counts = (List.range 16).map (fun i => (Memory.read s.mem (s.streamPos.toNat + 1 + i)).toNat) →
    vals = (List.range counts.sum).map (fun j => Memory.read s.mem (s.streamPos.toNat + 17 + j)) →
    s.streamPos.toNat < s.streamLen.toNat → ∀ i, i = .dhtGroupDc th ∨ i = .dhtGroupAc th →
    (s.streamLen.toNat < s.streamPos.toNat + 17 → exec i s = .next (failed .streamEos s.streamLen s)) ∧
    (s.streamPos.toNat + 17 ≤ s.streamLen.toNat → s.params.htMaxSymbols < counts.sum →
      exec i s = .next (failed .htInvalid (BitVec.ofNat 32 (s.streamPos.toNat + 17)) s)) ∧
    (s.streamPos.toNat + 17 ≤ s.streamLen.toNat → counts.sum ≤ s.params.htMaxSymbols →
      s.streamLen.toNat < s.streamPos.toNat + 17 + counts.sum →
      exec i s = .next (failed .streamEos s.streamLen s)) ∧
    (counts.sum ≤ s.params.htMaxSymbols → s.streamPos.toNat + 17 + counts.sum ≤ s.streamLen.toNat →
      buildCanonical counts vals = none →
      exec i s = .next (failed .htInvalid (BitVec.ofNat 32 (s.streamPos.toNat + 17 + counts.sum)) s)))

/-- 42 R162: the values in order, from the shortest length up; the first code 0 and each next code the one
before plus 1, doubled for each further bit; and the result is a prefix code. -/
def Obligations.CanonicalCodesArePrefixFree : Prop :=
  ∀ (counts : List Nat) (vals : List Byte) (table : HuffTable),
    counts.length ≤ 16 → buildCanonical counts vals = some table →
    table.map (·.sym) = vals.take counts.sum ∧
    table.map (·.len) = (counts.zipIdx.flatMap fun p => List.replicate p.1 (p.2 + 1)) ∧
    (∀ e, table[0]? = some e → e.code = 0) ∧
    (∀ j a b, table[j]? = some a → table[j + 1]? = some b →
      b.code = (a.code + 1) * 2 ^ (b.len - a.len)) ∧
    (∀ e ∈ table, entryWf e) ∧
    table.Pairwise fun a b => ¬ codePrefixOf a b ∧ ¬ codePrefixOf b a

/-- 42 R163: the counts are refused exactly where they ask for more codes than there are (Kraft's sum
above 1). -/
def Obligations.OversubscribedCountsAreRefused : Prop :=
  ∀ (counts : List Nat) (vals : List Byte), counts.length ≤ 16 → counts.sum ≤ vals.length →
    (buildCanonical counts vals = none ↔
      2 ^ 16 < (counts.zipIdx.map fun p => p.1 * 2 ^ (15 - p.2)).sum)

/-- 42 R170: feeding the bits of the k-th code to DecodeHuffman returns the k-th value. 42 R167, R161: at the first
bit with which the bits read are a prefix of no codeword, in a table of no codeword too, it raises BAD_CODE, which
ABORT_CAUSE shows as 2, with that bit read; and what ends the reading of a bit before ends it so (R166). -/
def Obligations.CanonicalCodeDecodesToItsValue : Prop :=
  (∀ (counts : List Nat) (vals : List Byte) (table : HuffTable) (k : Nat) (e : HuffEntry)
    (src : Nat → Option Byte) (d d' : Decoder),
    counts.length ≤ 16 → buildCanonical counts vals = some table → table[k]? = some e →
    delivers src (codeBits e.len e.code) d d' →
    vals[k]? = some e.sym ∧ decodeHuffman src table d = .ok e.sym d') ∧
  (∀ (n : Nat) (table : HuffTable) (src : Nat → Option Byte) (bs : List Bool) (d d₁ : Decoder), tableWf n table →
    bs = [] ∨ (∃ e ∈ table, bs.length < e.len ∧ bs <+: codeBits e.len e.code) → delivers src bs d d₁ →
    (∀ b d', readBit src d₁ = .ok b d' → (∀ e ∈ table, ¬ (bs ++ [b]) <+: codeBits e.len e.code) →
      decodeHuffman src table d = .raise (.abort .badCode) d') ∧
    (∀ x d', readBit src d₁ = .raise x d' → decodeHuffman src table d = .raise x d')) ∧
  (∀ s, s.abortCause = .badCode → (readAt 0x008 s).extractLsb' 16 8 = 2#8)

/-! The bit reader. -/

/-- 41 R142 to R144, R148: at a byte boundary the reader fetches a byte and delivers its bits from bit 7
down; FF 00 delivers eight 1 bits and drops the 00; FF xx is a marker; the stream can end. -/
def Obligations.FetchedBytesDeliverMsbFirst : Prop :=
  ∀ (src : Nat → Option Byte) (d : Decoder), d.bitsCount = 0 →
    (src d.cur = none → readBit src d = .raise (.abort .eos) d) ∧
    (∀ b, src d.cur = some b → b ≠ 0xFF#8 →
      delivers src (byteBits b) d { d with cur := d.cur + 1, bitsData := b, bitsCount := 0 }) ∧
    (src d.cur = some 0xFF#8 → src (d.cur + 1) = some 0x00#8 →
      delivers src (List.replicate 8 true) d { d with cur := d.cur + 2, bitsData := 0xFF#8, bitsCount := 0 }) ∧
    (∀ n, src d.cur = some 0xFF#8 → src (d.cur + 1) = some n → n ≠ 0x00#8 →
      readBit src d = .raise (.marker (0xFF#8 ++ n)) { d with cur := d.cur + 2 }) ∧
    (src d.cur = some 0xFF#8 → src (d.cur + 1) = none →
      readBit src d = .raise (.abort .eos) { d with cur := d.cur + 1 })

/-- 41 R146, 42 R169: Receive(n) reads n bits, the first the most significant; ReceiveExtend signs them. -/
def Obligations.ReceiveReadsMsbFirst : Prop :=
  ∀ (src : Nat → Option Byte) (bs : List Bool) (d d' : Decoder), delivers src bs d d' →
    receive src bs.length d = .ok (bitsValue bs) d' ∧ bitsValue bs < 2 ^ bs.length ∧
    receiveExtend src bs.length d = .ok (fieldValue bs) d'

/-- 42 R168. -/
def Obligations.ExtendIsSignedAndNeverZero : Prop :=
  ∀ v n : Nat, n ≤ 15 → v < 2 ^ n →
    (n = 0 → extend v n = 0) ∧
    (1 ≤ n → 2 ^ (n - 1) ≤ v → extend v n = v) ∧
    (1 ≤ n → v < 2 ^ (n - 1) → extend v n = (v : Int) - 2 ^ n + 1) ∧
    (1 ≤ n → extend v n ≠ 0) ∧ -((2 : Int) ^ n - 1) ≤ extend v n ∧ extend v n ≤ (2 : Int) ^ n - 1

/-! Symbols and blocks of a scan. -/

/-- 30 R91, 44 R227, R228: a DC category adds its difference to the predictor, shifted by AL in DC_FIRST,
and writes coefficient 0 only; a reserved category aborts the scan. -/
def Obligations.DcSymbolsUpdateThePredictor : Prop :=
  (∀ s (t : BitVec 4) bs d' sh, frameInv s → scanOpen s → blockHere s.dec = true →
    (s.dec.mode = some .baseline ∧ sh = 0) ∨ (s.dec.mode = some .dcFirst ∧ sh = s.dec.al) →
    bs.length = t.toNat → delivers s.streamByte bs s.dec d' →
    ∃ d₂, exec (.dcDiff t) s = .next { s with dec := d₂ } ∧
      curPred d₂ = curPred s.dec + (fieldValue bs <<< sh) ∧ blkGet 0 d₂ = curPred d₂ ∧
      onlyCoef 0 s.dec d₂ ∧ d₂ = { d' with frame := d₂.frame }) ∧
  (∀ s b, scanOpen s → blockHere s.dec = true →
    s.dec.mode = some .baseline ∨ s.dec.mode = some .dcFirst →
    exec (.dcReserved16 b) s = .next (aborted .badDcCategory s) ∧
    exec (.dcReserved32 b) s = .next (aborted .badDcCategory s) ∧
    exec (.dcReserved64 b) s = .next (aborted .badDcCategory s) ∧
    exec (.dcReserved128 b) s = .next (aborted .badDcCategory s))

/-- 30 R92, 44 R227, R230, R231: ZRL, and EOB or EOBr, in the three modes that read AC symbols. -/
def Obligations.AcRunsWithoutAValue : Prop :=
  ∀ s, scanOpen s → blockHere s.dec = true →
    (s.dec.mode = some .baseline ∨ s.dec.mode = some .acFirst →
      exec .acZrl s = .next { s with dec := { s.dec with k := s.dec.k + 16 } }) ∧
    (s.dec.mode = some .acSucc →
      exec .acZrl s = .next { s with dec := { s.dec with r := 16, acState := .skipZrl } }) ∧
    ∀ i (r : BitVec 4), (i = .acEob0 r ∨ i = .acEob8 r ∨ i = .acEob12 r ∨ (i = .acEob14 ∧ r = 14#4)) →
      (s.dec.mode = some .baseline → exec i s = .next { s with dec := { s.dec with k := 64 } }) ∧
      (∀ bs d', bs.length = r.toNat → delivers s.streamByte bs s.dec d' →
        (s.dec.mode = some .acFirst → exec i s = .next { s with
          dec := { d' with eobrun := bitsValue bs + 2 ^ r.toNat - 1, k := s.dec.se + 1 } }) ∧
        (s.dec.mode = some .acSucc → exec i s = .next { s with
          dec := { d' with r := r.toNat, eobrun := bitsValue bs + 2 ^ r.toNat, acState := .eobRun } }))

/-- 30 R92, 44 R227, R230: RUN/SIZE in BASELINE and AC_FIRST skips r positions and places the value, scaled
by AL in AC_FIRST; past the last position the scan aborts. -/
def Obligations.AcRunSizePlacesItsValue : Prop :=
  ∀ s i (r sz : BitVec 4) limit sh, frameInv s → scanOpen s → blockHere s.dec = true →
    ((i = .acRunSize1 r ∧ sz = 1#4) ∨ i = .acRunSize2 r sz ∨ i = .acRunSize4 r sz ∨ i = .acRunSize8 r sz) →
    (s.dec.mode = some .baseline ∧ limit = 63 ∧ sh = 0) ∨
      (s.dec.mode = some .acFirst ∧ limit = s.dec.se ∧ sh = s.dec.al) →
    (s.dec.k + r.toNat ≤ limit → ∀ n bs d', zigzag (s.dec.k + r.toNat) = some n →
      bs.length = sz.toNat → delivers s.streamByte bs s.dec d' →
      ∃ d₂, exec i s = .next { s with dec := d₂ } ∧ blkGet n d₂ = fieldValue bs <<< sh ∧
        onlyCoef n s.dec d₂ ∧ d₂.k = s.dec.k + r.toNat + 1 ∧ curPred d₂ = curPred s.dec ∧
        d₂ = { d' with frame := d₂.frame, k := d₂.k }) ∧
    (limit < s.dec.k + r.toNat →
      exec i s = .next (aborted .coefRange { s with dec := { s.dec with k := s.dec.k + r.toNat } }))

/-- 30 R93, 44 R231: RUN/SIZE in AC_SUCC reads one bit and holds +1 or −1 pending; a size of 2 to 15
aborts the scan. -/
def Obligations.AcRunSizeRefinementPends : Prop :=
  ∀ s (r : BitVec 4), scanOpen s → blockHere s.dec = true → s.dec.mode = some .acSucc →
    (∀ b d', delivers s.streamByte [b] s.dec d' →
      exec (.acRunSize1 r) s = .next { s with dec := { d' with
        r := r.toNat, acNext := if b then 1#32 else -1#32
        acState := if r = 0#4 then .setValue else .skipRun } }) ∧
    (∀ i (sz : BitVec 4), 2#4 ≤ sz → (i = .acRunSize2 r sz ∨ i = .acRunSize4 r sz ∨ i = .acRunSize8 r sz) →
      exec i s = .next (aborted .badRefineSize { s with dec := { s.dec with r := r.toNat } }))

/-- 30 R94, 44 R229: each DC_SUCC block carries one raw bit, with no Huffman code before it, and ORs it
into coefficient 0. That the row of a raw bit runs by itself, in any mode, is the model's choice (logs 3
and 10). -/
def Obligations.DcRefinementOrsOneBit : Prop :=
  (∀ s b, frameInv s → scanOpen s → blockHere s.dec = true →
    ∃ d₂, exec (.dcSuccBit b) s = .next { s with dec := d₂ } ∧
      blkGet 0 d₂ = blkGet 0 s.dec ||| ((BitVec.ofBool b).setWidth 32 <<< s.dec.al) ∧
      onlyCoef 0 s.dec d₂ ∧ curPred d₂ = curPred s.dec ∧ d₂ = { s.dec with frame := d₂.frame }) ∧
  (∀ s b d', frameInv s → scanOpen s → blockHere s.dec = true → delivers s.streamByte [b] s.dec d' →
    ∃ d₂, exec .dcSucc s = .next { s with dec := d₂ } ∧
      blkGet 0 d₂ = blkGet 0 s.dec ||| ((BitVec.ofBool b).setWidth 32 <<< s.dec.al) ∧
      onlyCoef 0 s.dec d₂ ∧ curPred d₂ = curPred s.dec ∧
      d₂ = { d' with frame := d₂.frame, mode := some .dcSucc })

/-- 44 R232: a correction bit, in both forms of AC_REFINE_MODE; the forms agree on a positive coefficient. That
the row of a raw bit runs by itself, in any mode and on a zero coefficient too, and moves on to the next
position as the walk of 44 R231 does, is the model's choice (logs 3 and 10). -/
def Obligations.CorrectionBitsRefine : Prop :=
  (∀ s b n, frameInv s → scanOpen s → blockHere s.dec = true → zigzag s.dec.k = some n →
    ∃ d₂, exec (.acSuccCorrectionBit b) s = .next { s with dec := d₂ } ∧
      (s.params.refineMode = .add →
        blkGet n d₂ = blkGet n s.dec + ((BitVec.ofBool b).setWidth 32 <<< s.dec.al)) ∧
      (s.params.refineMode = .magnitude → b = false → blkGet n d₂ = blkGet n s.dec) ∧
      (s.params.refineMode = .magnitude → b = true →
        blkGet n d₂ = if 0 < (blkGet n s.dec).toInt then blkGet n s.dec + (1#32 <<< s.dec.al)
          else blkGet n s.dec - (1#32 <<< s.dec.al)) ∧
      onlyCoef n s.dec d₂ ∧ d₂.k = s.dec.k + 1 ∧ curPred d₂ = curPred s.dec ∧
      d₂ = { s.dec with frame := d₂.frame, k := d₂.k }) ∧
  (∀ (c : Coef) b al, 0 < c.toInt → refine .add c b al = refine .magnitude c b al)

/-- 44 R228: a DC_FIRST block reads one symbol and its difference, and writes coefficient 0 only. -/
def Obligations.DcFirstBlockWritesDcOnly : Prop :=
  ∀ s table (t : Byte) d₁ bs d', frameInv s → scanOpen s → blockHere s.dec = true →
    curDc s.dec = some table →
    decodeHuffman s.streamByte table { s.dec with mode := some .dcFirst } = .ok t d₁ →
    t.toNat ≤ 15 → bs.length = t.toNat → delivers s.streamByte bs d₁ d' →
    ∃ d₂, exec .dcFirst s = .next { s with dec := d₂ } ∧
      curPred d₂ = curPred s.dec + (fieldValue bs <<< s.dec.al) ∧ blkGet 0 d₂ = curPred d₂ ∧
      onlyCoef 0 s.dec d₂ ∧ d₂ = { d' with frame := d₂.frame }

/-- 44 R227, R230: a BASELINE block whose first AC symbol is EOB has its DC difference only. In any BASELINE block,
after the DC difference, and in any AC_FIRST block outside a run, the loop goes on symbol by symbol from the k that
the symbol before left, until k is past 63 or SE, EOB or EOBr ends it, or the scan ends. That the row decodes one
block by itself, and the mark of a block's end by k, are the model's (logs 3 and 4). -/
def Obligations.BaselineFlatBlockWritesDcOnly : Prop :=
  (∀ s dc ac (t rs : Byte) d₁ bs d' d₃ a b, frameInv s → scanOpen s → blockHere s.dec = true →
      curDc s.dec = some dc → curAc s.dec = some ac →
      decodeHuffman s.streamByte dc { s.dec with mode := some .baseline } = .ok t d₁ →
      t.toNat ≤ 15 → bs.length = t.toNat → delivers s.streamByte bs d₁ d' →
      decodeHuffman s.streamByte ac d' = .ok rs d₃ → rs &&& 0x0F#8 = 0#8 → rs ≠ 0xF0#8 →
      ∃ d₂, exec (.baseline a b) s = .next { s with dec := d₂ } ∧
        curPred d₂ = curPred s.dec + fieldValue bs ∧ blkGet 0 d₂ = curPred d₂ ∧
        onlyCoef 0 s.dec d₂ ∧ d₂ = { d₃ with frame := d₂.frame, k := 64 }) ∧
  (∀ s dc ac (t : Byte) d₁ bs d' a b n d₂, scanOpen s → blockHere s.dec = true →
    curDc s.dec = some dc → curAc s.dec = some ac →
    decodeHuffman s.streamByte dc { s.dec with mode := some .baseline } = .ok t d₁ →
    t.toNat ≤ 15 → bs.length = t.toNat → delivers s.streamByte bs d₁ d' →
    acPasses s.streamByte ac 63 0 n
      { blkSet 0 (curPred s.dec + fieldValue bs) (setCurPred (curPred s.dec + fieldValue bs) d') with k := 1 } d₂ →
    acLoopEnds s ac 63 d₂ (exec (.baseline a b) s) ∧
    ∀ (rs : Byte) d₃, d₂.k ≤ 63 → decodeHuffman s.streamByte ac d₂ = .ok rs d₃ →
      rs &&& 0x0F#8 = 0#8 → rs ≠ 0xF0#8 →
      exec (.baseline a b) s = .next { s with dec := { d₃ with k := 64 } }) ∧
  (∀ s ac n d₂, scanOpen s → blockHere s.dec = true → curAc s.dec = some ac → s.dec.eobrun = 0 →
    s.dec.se ≤ 63 →
    acPasses s.streamByte ac s.dec.se s.dec.al n { s.dec with mode := some .acFirst, k := s.dec.ss } d₂ →
    acLoopEnds s ac s.dec.se d₂ (exec .acFirst s) ∧
    ∀ (rs : Byte) d₃ es d₄, d₂.k ≤ s.dec.se → decodeHuffman s.streamByte ac d₂ = .ok rs d₃ →
      rs &&& 0x0F#8 = 0#8 → rs ≠ 0xF0#8 → es.length = rs.toNat / 16 → delivers s.streamByte es d₃ d₄ →
      exec .acFirst s = .next { s with
        dec := { d₄ with eobrun := bitsValue es + 2 ^ es.length - 1, k := s.dec.se + 1 } })

/-- 44 R230, R231, R233: end-of-band runs, and the runs that end with the band. An AC_FIRST block inside a run is
skipped, with nothing read, and one that begins with EOBr starts a run. An AC_SUCC block whose band holds zeros
only counts the run it is in down, or starts one and counts it down once, leaving state 4 at 0. In any band, an
AC_SUCC block in state 4, or one whose first symbol is EOBr, RUN/SIZE or ZRL, refines the band's nonzero
coefficients on the way, each with its bit. States 1 and 2 count zeros; the pending value, shifted left by AL,
goes to the zero after the run; where the band ends inside the run, the block ends in state 1, 2 or 3 and the
scan aborts. After a run that ends inside the band the automaton is in state 0 at the next position and reads the
next symbol, until one of the block's ends. That the row decodes one block by itself, and a run of 0 in state 4, are
the model's (logs 3 and 24). -/
def Obligations.EndOfBandRunsCountBlocks : Prop :=
  ∀ s table, scanOpen s → blockHere s.dec = true → curAc s.dec = some table →
    (0 < s.dec.eobrun → exec .acFirst s = .next { s with
      dec := { s.dec with mode := some .acFirst, eobrun := s.dec.eobrun - 1 } }) ∧
    (∀ (rs : Byte) d₁ bs d', s.dec.eobrun = 0 → s.dec.ss ≤ s.dec.se →
      decodeHuffman s.streamByte table { s.dec with mode := some .acFirst, k := s.dec.ss } = .ok rs d₁ →
      rs &&& 0x0F#8 = 0#8 → rs ≠ 0xF0#8 → bs.length = rs.toNat / 16 → delivers s.streamByte bs d₁ d' →
      exec .acFirst s = .next { s with
        dec := { d' with eobrun := bitsValue bs + 2 ^ bs.length - 1, k := s.dec.se + 1 } }) ∧
    (s.dec.ss ≤ s.dec.se → s.dec.se ≤ 63 →
      (∀ k n, s.dec.ss ≤ k → k ≤ s.dec.se → zigzag k = some n → blkGet n s.dec = 0#32) →
      (s.dec.acState = .eobRun → exec .acSucc s = .next { s with dec := { s.dec with
        mode := some .acSucc, k := s.dec.se + 1, r := 0, eobrun := s.dec.eobrun - 1
        acState := if s.dec.eobrun - 1 = 0 then .initial else .eobRun } }) ∧
      (∀ (rs : Byte) d₁ bs d', s.dec.acState = .initial →
        decodeHuffman s.streamByte table { s.dec with mode := some .acSucc, k := s.dec.ss, r := 0 } = .ok rs d₁ →
        rs &&& 0x0F#8 = 0#8 → rs ≠ 0xF0#8 → bs.length = rs.toNat / 16 → delivers s.streamByte bs d₁ d' →
        exec .acSucc s = .next { s with dec := { d' with
          k := s.dec.se + 1, r := bs.length, eobrun := bitsValue bs + 2 ^ bs.length - 1
          acState := if bitsValue bs + 2 ^ bs.length - 1 = 0 then .initial else .eobRun } })) ∧
    (frameInv s → s.dec.ss ≤ s.dec.se → s.dec.se ≤ 63 →
      (∀ bs d', s.dec.acState = .eobRun → bs.length = (bandNonzeros s.dec).length →
        delivers s.streamByte bs s.dec d' → ∃ d₂, exec .acSucc s = .next { s with dec := d₂ } ∧
          bandWalked s.params.refineMode bs [] s.dec d₂ ∧
          d₂ = { d' with
            frame := d₂.frame, mode := some .acSucc, k := s.dec.se + 1, r := 0, eobrun := s.dec.eobrun - 1
            acState := if s.dec.eobrun - 1 = 0 then .initial else .eobRun }) ∧
      ∀ (rs : Byte) d₁ bs d', s.dec.acState = .initial →
        decodeHuffman s.streamByte table { s.dec with mode := some .acSucc, k := s.dec.ss, r := 0 } = .ok rs d₁ →
        bs.length = (bandNonzeros s.dec).length →
        (∀ es, rs &&& 0x0F#8 = 0#8 → rs ≠ 0xF0#8 → es.length = rs.toNat / 16 →
          delivers s.streamByte (es ++ bs) d₁ d' → ∃ d₂, exec .acSucc s = .next { s with dec := d₂ } ∧
            bandWalked s.params.refineMode bs [] s.dec d₂ ∧
            d₂ = { d' with
              frame := d₂.frame, k := s.dec.se + 1, r := es.length, eobrun := bitsValue es + 2 ^ es.length - 1
              acState := if bitsValue es + 2 ^ es.length - 1 = 0 then .initial else .eobRun }) ∧
        (∀ (sign : Bool) (v : Coef) (z : Nat), rs &&& 0x0F#8 = 1#8 → v = (if sign then 1#32 else -1#32) →
          delivers s.streamByte (sign :: bs) d₁ d' →
          ((bandZeros s.dec).length = rs.toNat / 16 + 1 → zigzag s.dec.se = some z → blkGet z s.dec = 0#32 →
            ∃ d₂, exec .acSucc s = .next { s with dec := d₂ } ∧
              bandWalked s.params.refineMode bs [z] s.dec d₂ ∧ blkGet z d₂ = v <<< s.dec.al ∧
              d₂ = { d' with
                frame := d₂.frame, k := s.dec.se + 1, r := 0, acNext := v, acState := .initial }) ∧
          ((bandZeros s.dec).length ≤ rs.toNat / 16 →
            ∃ d₂, exec .acSucc s = .next (aborted .refineState { s with dec := d₂ }) ∧
              bandWalked s.params.refineMode bs [] s.dec d₂ ∧
              d₂ = { d' with
                frame := d₂.frame, k := s.dec.se + 1, r := rs.toNat / 16 - (bandZeros s.dec).length, acNext := v
                acState := if (bandZeros s.dec).length = rs.toNat / 16 then .setValue else .skipRun })) ∧
        (∀ z : Nat, rs = 0xF0#8 → delivers s.streamByte bs d₁ d' →
          ((bandZeros s.dec).length = 16 → zigzag s.dec.se = some z → blkGet z s.dec = 0#32 →
            ∃ d₂, exec .acSucc s = .next { s with dec := d₂ } ∧
              bandWalked s.params.refineMode bs [] s.dec d₂ ∧
              d₂ = { d' with frame := d₂.frame, k := s.dec.se + 1, r := 0, acState := .initial }) ∧
          ((bandZeros s.dec).length < 16 →
            ∃ d₂, exec .acSucc s = .next (aborted .refineState { s with dec := d₂ }) ∧
              bandWalked s.params.refineMode bs [] s.dec d₂ ∧
              d₂ = { d' with
                frame := d₂.frame, k := s.dec.se + 1, r := 16 - (bandZeros s.dec).length
                acState := .skipZrl }))) ∧
    (∀ n d, s.dec.acState = .initial →
      succPasses s.params.refineMode s.streamByte table n
        { s.dec with mode := some .acSucc, k := s.dec.ss, r := 0 } d →
      succEnds s table d (exec .acSucc s))

/-! Markers, intervals and the scan. -/

/-- 30 R86, 41 R143, 44 R221, R223: a marker in a scan's stream ends the scan with LAST_MARKER set to it;
so does RSTn when no MCU is left; FF 00 is the data byte FF. That the row of FF 00 gives the reader that byte also
where bits are held, and leaves the cursor alone, is the model's choice (logs 3 and 23). -/
def Obligations.MarkersEndTheScan : Prop :=
  ∀ s, scanOpen s →
    exec .soi s = .next (scanEnded 0xFFD8#16 s) ∧ exec .eoi s = .next (scanEnded 0xFFD9#16 s) ∧
    exec .sof0 s = .next (scanEnded 0xFFC0#16 s) ∧ exec .sof2 s = .next (scanEnded 0xFFC2#16 s) ∧
    exec .dht s = .next (scanEnded 0xFFC4#16 s) ∧ exec .dqt s = .next (scanEnded 0xFFDB#16 s) ∧
    exec .sos s = .next (scanEnded 0xFFDA#16 s) ∧ exec .dri s = .next (scanEnded 0xFFDD#16 s) ∧
    exec .com s = .next (scanEnded 0xFFFE#16 s) ∧
    (∀ n : BitVec 4, exec (.app n) s = .next (scanEnded (0xFFE#12 ++ n) s)) ∧
    (∀ n : BitVec 3, s.dec.mcuExpected ≤ s.dec.mcuCount →
      exec (.rst n) s = .next (scanEnded (0x1FFA#13 ++ n) s)) ∧
    exec .stuffedFF s = .next { s with dec := { s.dec with bitsData := 0xFF#8, bitsCount := 7 } }

/-- 44 R217, R221: RSTn with MCUs left starts the next interval. That the row of a marker stands at an interval's
end is the model's choice (log 3): met while an MCU decodes, RSTn ends the scan (44 R223). An interval's start
sets the predictors of the scan's components, eobrun, acState and acNext to 0 and keeps every other component's
predictor and every coefficient. -/
def Obligations.RestartsResetThePredictors : Prop :=
  (∀ s (n : BitVec 3), scanOpen s → s.dec.mcuCount < s.dec.mcuExpected →
    exec (.rst n) s = .next { s with dec := startInterval { s.dec with bitsCount := 0 } }) ∧
  (∀ d, (startInterval d).eobrun = 0 ∧ (startInterval d).acState = .initial ∧
    (startInterval d).acNext = 0#32 ∧
    (∀ i c, frameComp d i = some c →
      ((∃ sc ∈ d.scomps, sc.comp = i) → frameComp (startInterval d) i = some { c with pred := 0#32 }) ∧
      ((∀ sc ∈ d.scomps, sc.comp ≠ i) → frameComp (startInterval d) i = some c)) ∧
    startInterval d = { d with
      frame := (startInterval d).frame, eobrun := 0, acState := .initial, acNext := 0#32 })

/-- 44 R211: DECODE_SCAN's checks, in order, with no other change of state; a scan that passes them all
is accepted. -/
def Obligations.ScanChecksRefuseInOrder : Prop :=
  ∀ s, (¬ scanOpen s → exec .decodeScan s = .next (failed .sequence s.streamPos s)) ∧
    ∀ f, s.dec.frame = some f → s.built = false →
      (cfgNs s = 0 ∨ 4 < cfgNs s → exec .decodeScan s = .next (failed .scanParam s.streamPos s)) ∧
      (1 ≤ cfgNs s → cfgNs s ≤ 4 → ∀ j : Fin 4, j.val < cfgNs s → scanCompRefused s f j →
        exec .decodeScan s = .next (failed .scanParam s.streamPos s)) ∧
      (f.progressive = true → cfgSs s ≠ 0 → (63 < cfgSe s ∨ cfgSe s < cfgSs s) →
        exec .decodeScan s = .next (failed .scanParam s.streamPos s)) ∧
      (1 ≤ cfgNs s → cfgNs s ≤ 4 → (∀ j : Fin 4, j.val < cfgNs s → ¬ scanCompRefused s f j) →
        (f.progressive = true → cfgSs s ≠ 0 → cfgSe s ≤ 63 ∧ cfgSs s ≤ cfgSe s) → checkScan s f = none)

/-- 30 R97, 44 R210, R213, R220 to R224, R226: a scan that passes its checks ends in one of three ways, and shows
its mode, by the five rows of 30 R97, its progress and its position however it ends; a frame component that no
SCAN_COMP register names keeps its predictor and every coefficient (R217, R225, R234), and the frame record is
kept. A DC_SUCC scan of one block, whose bit is there and whose end is a marker, completes: it refines that block
and returns the marker (R229, R221). Any scan binds the components and tables SCAN_COMP names (R212) and decodes the
blocks of each MCU, in order, as the row of its mode decodes one (R214 to R219), in intervals of RI MCUs, or one of
all for RI = 0, each begun by its resets and ended by a marker (R220, R221). However far that has come, where the row
of the next block ends the scan, or the interval is done and the scan does not go on, DECODE_SCAN answers so. That a
row runs by itself is the model's (log 3). -/
def Obligations.DecodeScanEndsInOneOfThreeWays : Prop :=
  (∀ s f, StateInv s → s.dec.frame = some f → checkScan s f = none →
    ∃ t, exec .decodeScan s = .next t ∧ t.busy = false ∧ t.done = true ∧
      (let ss := s.scanCfg.extractLsb' 8 8;
        let ah := s.scanCfg.extractLsb' 24 4;
        (f.progressive = false → showsMode t .baseline 0#3) ∧
        (f.progressive = true → ss = 0#8 → ah = 0#4 → showsMode t .dcFirst 1#3) ∧
        (f.progressive = true → ss = 0#8 → ah ≠ 0#4 → showsMode t .dcSucc 2#3) ∧
        (f.progressive = true → ss ≠ 0#8 → ah = 0#4 → showsMode t .acFirst 3#3) ∧
        (f.progressive = true → ss ≠ 0#8 → ah ≠ 0#4 → showsMode t .acSucc 4#3)) ∧
      sameRecord s.dec.frame t.dec.frame ∧
      (∀ i c, frameComp s.dec i = some c →
        (∀ j : Fin 4, j.val < cfgNs s → scanCid (fourGet s.scanComp j) ≠ c.cid) →
        frameComp t.dec i = some c) ∧
      t.dec.mcuCount ≤ mcusExpected f (bindComps s f) ∧
      t.streamPos = BitVec.ofNat 32 t.dec.cur ∧ t.eobrunReg = BitVec.ofNat 16 t.dec.eobrun ∧
      t.acStateReg = t.dec.acState ∧
      ((t.errCode = s.errCode ∧ t.errPos = s.errPos ∧ t.abortCause = .none ∧
          t.scanAborted = s.scanAborted ∧ 0xFF00#16 < t.lastMarker) ∨
        (t.errCode = s.errCode ∧ t.errPos = s.errPos ∧ t.abortCause ≠ .none ∧
          t.scanAborted = true ∧ t.lastMarker = 0xFFD9#16) ∨
        ((t.errCode = .streamEos ∨ t.errCode = .markerNotFound) ∧ t.abortCause = .none ∧
          t.scanAborted = s.scanAborted ∧ t.lastMarker = s.lastMarker))) ∧
  (∀ s f sc c b d' (hi lo : Byte), StateInv s → s.dec.frame = some f → checkScan s f = none →
    f.progressive = true → s.scanCfg.extractLsb' 8 8 = 0#8 → s.scanCfg.extractLsb' 24 4 ≠ 0#4 →
    bindComps s f = [sc] → f.comps[sc.comp]? = some c → mcusExpected f [sc] = 1 →
    delivers s.streamByte [b] { s.dec with cur := s.streamPos.toNat, bitsCount := 0 } d' →
    s.streamByte d'.cur = some hi → s.streamByte (d'.cur + 1) = some lo → 0xFF00#16 < hi ++ lo →
    ∃ t c', exec .decodeScan s = .next t ∧ t.busy = false ∧ t.done = true ∧
      t.errCode = s.errCode ∧ t.abortCause = .none ∧ t.scanAborted = s.scanAborted ∧ t.lastMarker = hi ++ lo ∧
      t.streamPos = BitVec.ofNat 32 (d'.cur + 2) ∧ t.dec.mcuCount = 1 ∧ t.dec.mode = some .dcSucc ∧
      frameComp t.dec sc.comp = some c' ∧
      c'.coef 0 0 0 = c.coef 0 0 0 ||| ((BitVec.ofBool b).setWidth 32 <<< cfgAl s)) ∧
  (∀ s f i m, StateInv s → s.busy = true → s.dec.frame = some f → checkScan s f = none → scanRow s f i m →
    (bindComps s f).length = cfgNs s ∧
    (∀ j : Fin 4, j.val < cfgNs s → ∃ sc c, (bindComps s f)[j.val]? = some sc ∧ f.comps[sc.comp]? = some c ∧
      c.cid = scanCid (fourGet s.scanComp j) ∧ sc.dc = storeGet (scanTd (fourGet s.scanComp j)) s.dcTab ∧
      sc.ac = storeGet (scanTa (fourGet s.scanComp j)) s.acTab) ∧
    ∀ p n d₁ d₂, let s₀ : State := { s with abortCause := .none };
      intervalsDecoded i s₀ f p (scanStart s f m) d₁ → n ≤ mcusInInterval d₁ →
      mcusDecoded i s₀ f n (startInterval d₁) d₂ →
      (n = mcusInInterval d₁ → intervalEnds s₀ d₂ (exec .decodeScan s)) ∧
      (n < mcusInInterval d₁ → ∀ before b after d₃ t,
        mcuBlocks f d₂.scomps d₂.mcuCount = before ++ b :: after → blocksDecoded i s₀ before d₂ d₃ →
        exec i { s₀ with dec := atBlock b d₃ } = .next t → t.busy = false → exec .decodeScan s = .next t))

/-! The frame. -/

/-- 43 R191: SET_FRAME's checks, in order; a frame that passes them all is accepted. -/
def Obligations.FrameChecksRefuseInOrder : Prop :=
  ∀ s, (s.dec.frame.isSome = true → exec .setFrame s = .next (failed .sequence s.streamPos s)) ∧
    (s.dec.frame = none →
      (cfgNcomp s = 0 ∨ 4 < cfgNcomp s ∨ cfgSamplesPerLine s = 0 ∨ cfgScanLines s = 0 →
        exec .setFrame s = .next (failed .frameParam s.streamPos s)) ∧
      (cfgNcomp s ≤ 4 → ∀ i : Fin 4, i.val < cfgNcomp s →
        (compH (fourGet s.compCfg i) = 0 ∨ 4 < compH (fourGet s.compCfg i) ∨
          compV (fourGet s.compCfg i) = 0 ∨ 4 < compV (fourGet s.compCfg i) ∨
          (∃ j : Fin 4, j < i ∧ compCid (fourGet s.compCfg j) = compCid (fourGet s.compCfg i))) →
        exec .setFrame s = .next (failed .frameParam s.streamPos s)) ∧
      (1 ≤ cfgNcomp s → cfgNcomp s ≤ 4 → cfgSamplesPerLine s ≠ 0 → cfgScanLines s ≠ 0 →
        (∀ i : Fin 4, i.val < cfgNcomp s →
          1 ≤ compH (fourGet s.compCfg i) ∧ compH (fourGet s.compCfg i) ≤ 4 ∧
          1 ≤ compV (fourGet s.compCfg i) ∧ compV (fourGet s.compCfg i) ≤ 4 ∧
          ∀ j : Fin 4, j < i → compCid (fourGet s.compCfg j) ≠ compCid (fourGet s.compCfg i)) →
        ((s.params.maxBlocks : Nat) < ((mkFrame s).comps.map fun c => c.bplm * c.bpcm).sum →
          exec .setFrame s = .next (failed .frameTooLarge s.streamPos s)) ∧
        (((mkFrame s).comps.map fun c => c.bplm * c.bpcm).sum ≤ (s.params.maxBlocks : Nat) → checkFrame s = none)))

/-- 43 R190, R192 to R195, R197, R199: the frame a SET_FRAME that passes its checks latches. -/
def Obligations.SetFrameLatchesTheGeometry : Prop :=
  ∀ s, checkFrame s = none → ∃ f,
    exec .setFrame s = .next (ended { s with dec := { s.dec with frame := some f } }) ∧
    f.progressive = s.frameCfg.getLsbD 0 ∧ f.precision = s.frameCfg.extractLsb' 8 8 ∧
    f.samplesPerLine = (s.frameSize.extractLsb' 0 16).toNat ∧
    f.scanLines = (s.frameSize.extractLsb' 16 16).toNat ∧
    f.comps.length = (s.frameCfg.extractLsb' 16 3).toNat ∧
    (∀ c ∈ f.comps, c.h ≤ f.maxH ∧ c.v ≤ f.maxV ∧ c.cid ≤ f.maxCid) ∧
    (∃ c ∈ f.comps, c.h = f.maxH) ∧ (∃ c ∈ f.comps, c.v = f.maxV) ∧ (∃ c ∈ f.comps, c.cid = f.maxCid) ∧
    isCeil f.mcusPerLine f.samplesPerLine (8 * f.maxH) ∧
    isCeil f.mcusPerColumn f.scanLines (8 * f.maxV) ∧
    ∀ i : Fin 4, i.val < f.comps.length → ∃ c, f.comps[i.val]? = some c ∧
      c.cid = (fourGet s.compCfg i).extractLsb' 0 8 ∧
      c.h = ((fourGet s.compCfg i).extractLsb' 8 4).toNat ∧
      c.v = ((fourGet s.compCfg i).extractLsb' 12 4).toNat ∧
      c.tq = ((fourGet s.compCfg i).extractLsb' 16 4).toNat ∧
      (∃ x, isCeil x f.samplesPerLine 8 ∧ isCeil c.bpl (x * c.h) f.maxH) ∧
      (∃ y, isCeil y f.scanLines 8 ∧ isCeil c.bpc (y * c.v) f.maxV) ∧
      c.bplm = f.mcusPerLine * c.h ∧ c.bpcm = f.mcusPerColumn * c.v ∧
      ∀ row col n, c.coef row col n = 0#32

/-- 43 R195: the padded block counts, never below the unpadded ones. -/
def Obligations.PaddedCountsCoverTheBlocks : Prop :=
  ∀ f c, frameWf f → c ∈ f.comps →
    c.bplm = f.mcusPerLine * c.h ∧ c.bpcm = f.mcusPerColumn * c.v ∧
    1 ≤ c.bpl ∧ c.bpl ≤ c.bplm ∧ 1 ≤ c.bpc ∧ c.bpc ≤ c.bpcm

/-- 43 R196: every block address a scan forms lies inside the component's blocks. 44 R214, R218, R219: how many MCUs
a scan has, and the blocks of an MCU in order: the one of a one-component scan, else component by component in scan
order, row by row. -/
def Obligations.ScanBlocksLieInTheirComponent : Prop :=
  (∀ f scomps m j row col, frameWf f → (∀ sc ∈ scomps, ScanComp.comp sc < f.comps.length) →
    m < mcusExpected f scomps → (j, row, col) ∈ mcuBlocks f scomps m →
    ∃ sc c, scomps[j]? = some sc ∧ f.comps[sc.comp]? = some c ∧ row < c.bpcm ∧ col < c.bplm ∧
      (scomps.length = 1 → row < c.bpc ∧ col < c.bpl)) ∧
  (∀ f sc c m, f.comps[ScanComp.comp sc]? = some c →
    mcusExpected f [sc] = c.bpl * c.bpc ∧ mcuBlocks f [sc] m = [(0, m / c.bpl, m % c.bpl)]) ∧
  (∀ f (scomps : List ScanComp) m, 2 ≤ scomps.length →
    mcusExpected f scomps = f.mcusPerLine * f.mcusPerColumn ∧
    ∀ cs : List Comp, cs.length = scomps.length →
      (∀ (j : Nat) (sc : ScanComp), scomps[j]? = some sc → f.comps[sc.comp]? = cs[j]?) →
      mcuBlocks f scomps m = cs.zipIdx.flatMap fun cj =>
        (List.range cj.1.v).flatMap fun y => (List.range cj.1.h).map fun x =>
          (cj.2, m / f.mcusPerLine * cj.1.v + y, m % f.mcusPerLine * cj.1.h + x))

/-! The inverse DCT and the lines. -/

/-- 45 R272, R268, for the default of IDCT8x8 (00 R8): a flat block gives a constant tile of the two-pass value,
and the fast path is not the general path's value. -/
def Obligations.FlatBlocksGiveFlatTiles : Prop :=
  (∀ (d : Coef) (q : QTable) (blk : Nat → Coef) (x y : Nat), blk 0 = d → (∀ n, n ≠ 0 → blk n = 0#32) →
    x < 8 → y < 8 →
    let a : Coef := (5793#32 * (d * (q[0]).setWidth 32) + 512#32).sshiftRight 10
    let b : Coef := (5793#32 * a + 8192#32).sshiftRight 14
    let v : Int := 128 + ((b + 8#32).sshiftRight 4).toInt
    ((eightList (idct8x8 blk q))[y]?.bind fun row => (eightList row)[x]?) =
      some (if v < 0 then 0#8 else if 255 < v then 255#8 else BitVec.ofInt 8 v)) ∧
  (pass8 rowShape ⟨2#32, 0#32, 0#32, 0#32, 0#32, 0#32, 0#32, 0#32⟩).p0 = 11#32 ∧
  (stage1 (stage2 (stage3 rowShape (stage4 rowShape ⟨2#32, 0#32, 0#32, 0#32, 0#32, 0#32, 0#32, 0#32⟩)))).p0 = 12#32

/-- 45 R270, R271: BUILD_COMPONENTS fills each component's lines with the tiles of its unpadded blocks, or
refuses before it writes a line. The tile is that of the parameter IDCT8x8 (00 R8), whatever it is; its default
is the function of 45 R269, which R264 to R269 write out with the constants of R265. -/
def Obligations.BuildPlacesEveryTile : Prop :=
  (∀ s f, s.dec.frame = some f → s.built = false → (∀ c ∈ f.comps, (storeGet c.tq s.qt).isSome = true) →
    ∃ planes, exec .buildComponents s = .next (ended { s with lines := some planes }) ∧
      planesWf f.comps planes ∧
      ∀ (i : Nat) (c : Comp) (q : QTable) (row col y x : Nat), f.comps[i]? = some c → storeGet c.tq s.qt = some q →
        row < c.bpc → col < c.bpl → y < 8 → x < 8 →
        (planes[i]?.bind fun p => p[8 * row + y]?.bind fun ln => ln[8 * col + x]?) =
          ((eightList (inverseTransform s.params.idct (c.coef row col) q))[y]?.bind fun ln => (eightList ln)[x]?) ∧
        (s.params.idct = .standard →
          inverseTransform s.params.idct (c.coef row col) q = idct8x8 (c.coef row col) q)) ∧
  (∀ s, ¬ scanOpen s → exec .buildComponents s = .next (failed .sequence s.streamPos s)) ∧
  (∀ s f c, s.dec.frame = some f → s.built = false → c ∈ f.comps → storeGet c.tq s.qt = none →
    exec .buildComponents s = .next (failed .qtMissing s.streamPos s)) ∧
  (∀ blk q y x, y < 8 → x < 8 →
    ((eightList (idct8x8 blk q))[y]?.bind fun ln => (eightList ln)[x]?) = some (idctByRules blk q y x))

/-- 45 R273: built lines are read-only until CLEAR or reset. -/
def Obligations.BuiltLinesAreReadOnly : Prop :=
  (∀ i s t p, exec i s = .next t → s.lines = some p → i ≠ .clear → t.lines = some p ∧ t.built = true) ∧
  (∀ slot w s, ¬ (slot = slotOf 0x004 ∧ w.getLsbD 1 = true) → (busWrite slot w s).lines = s.lines) ∧
  (∀ s, s.built = true →
    exec .buildComponents s = .next (failed .sequence s.streamPos s) ∧
    exec .decodeScan s = .next (failed .sequence s.streamPos s))

/-! Colour conversion. -/

/-- 46 R295: sampling never leaves the line memory, and the clamp never changes the line in exact arithmetic. In
another COLOR_ARITH (00 R8) the sample is some byte of the component's lines (log 7). -/
def Obligations.SamplesLieInTheirLines : Prop :=
  ∀ f planes i c ow oh x y, frameWf f → planesWf f.comps planes → f.comps[i]? = some c →
    x < ow → y < oh →
    x * f.samplesPerLine * c.h / (ow * f.maxH) < 8 * c.bpl ∧
    y * f.scanLines * c.v / (oh * f.maxV) < 8 * c.bpc ∧
    (∃ b, sample .exact f planes ow oh x y i = some b ∧
      (planes[i]?.bind fun p => p[y * f.scanLines * c.v / (oh * f.maxV)]?.bind fun ln =>
        ln[x * f.samplesPerLine * c.h / (ow * f.maxH)]?) = some b) ∧
    ∀ arith, ∃ b ix iy, sample arith f planes ow oh x y i = some b ∧ ix < 8 * c.bpl ∧ iy < 8 * c.bpc ∧
      (planes[i]?.bind fun p => p[iy]?.bind fun ln => ln[ix]?) = some b

/-- 30 R99, 46 R290, R293, R294: COLOR_CONVERT emits ALLOC and then one event per pixel, row by row, and changes
nothing else. The event is that of the conversion the dispatch table lists for (NCOMP, source, OUT_CS), the one
that the table's row emits on that pixel; what it does not list has no conversion. -/
def Obligations.ColorConvertEmitsTheImage : Prop :=
  (∀ s f planes, StateInv s → s.dec.frame = some f → s.lines = some planes →
    colorRejected s f.comps.length (srcCs s) = false →
    ∃ i cv events, (f.comps.length, srcCs s, outCs s, i, cv) ∈ dispatchTable ∧
      exec .colorConvert s = .next (ended { s with sink := (s.sink ++
        .alloc (s.outSize.extractLsb' 0 16) (s.outSize.extractLsb' 16 16) (srcCs s) f.comps.length :: events) }) ∧
      events.length = outW s * outH s ∧
      ∀ x y, x < outW s → y < outH s → ∃ e, events[y * outW s + x]? = some e ∧
        pixelEvent s.params.colorArith cv x y
          (sample s.params.colorArith f planes (outW s) (outH s) x y) = some e ∧
        exec i (atPixel x y s) = .next (emitted e (atPixel x y s))) ∧
  (∀ n src out i cv, (n, src, out, i, cv) ∈ dispatchTable →
    conversionOf n src out = some cv ∧
    encode i = (.colorDispatch, BitVec.ofNat 32 (16 * n + 4 * src.toNat + out.toNat))) ∧
  (∀ n src out, (∀ i cv, (n, src, out, i, cv) ∉ dispatchTable) → conversionOf n src out = none)

/-- 46 R290, R291: COLOR_CONVERT's refusals, the conversion of every frame that is not refused, and the
selectors the dispatch table does not list. That the row of these raises COLOR_MODE by itself, with no frame or no
lines too, is the model's choice (logs 3 and 10). -/
def Obligations.ColorChecksRefuse : Prop :=
  (∀ s, s.frameValid = false ∨ s.built = false →
    exec .colorConvert s = .next (failed .sequence s.streamPos s)) ∧
  (∀ s f planes, s.dec.frame = some f → s.lines = some planes →
    (colorRefused s f.comps.length → exec .colorConvert s = .next (failed .colorMode s.streamPos s)) ∧
    (1 ≤ f.comps.length → f.comps.length ≤ 4 → ¬ colorRefused s f.comps.length →
      colorRejected s f.comps.length (srcCs s) = false ∧
      (conversionOf f.comps.length (srcCs s) (outCs s)).isSome = true)) ∧
  (∀ s n src out, exec (.colorModeOther n src out) s = .next (failed .colorMode s.streamPos s))

/-- 46 R297, R298, R299: the conversions that copy samples. That a row run by itself works on one pixel, in states
whose COLOR_CONVERT would emit none too, and moves to the next is the model's choice (logs 3, 4 and 22). -/
def Obligations.CopyingColorRowsEmit : Prop :=
  ∀ s f planes a, s.dec.frame = some f → s.lines = some planes → pixelSample s f planes 0 = some a →
    let x := BitVec.ofNat 16 s.px
    let y := BitVec.ofNat 16 s.py
    (∀ i, i = .color1cYCbCrOutYCbCr ∨ i = .color1cCmykOutYCbCr ∨ i = .color1cYcckOutYCbCr →
      exec i s = .next (emitted (.ycc x y a 0#8 0#8) s)) ∧
    (∀ i, i = .color1cYCbCrOutRgb ∨ i = .color1cCmykOutRgb ∨ i = .color1cYcckOutRgb →
      exec i s = .next (emitted (.rgb x y a a a) s)) ∧
    (∀ b, pixelSample s f planes 1 = some b →
      (∀ i, i = .color2cYCbCrOutYCbCr ∨ i = .color2cYCbCrOutRgb ∨ i = .color2cCmykOutYCbCr ∨
          i = .color2cCmykOutRgb ∨ i = .color2cYcckOutYCbCr ∨ i = .color2cYcckOutRgb →
        exec i s = .next (emitted (.s2 x y a b) s)) ∧
      (∀ c, pixelSample s f planes 2 = some c →
        exec .color3cYCbCrOutYCbCr s = .next (emitted (.ycc x y a b c) s)))

/-- 46 R300, R296: YCbCr to RGB in exact rational arithmetic, then clamp8; in another COLOR_ARITH (00 R8) the row
emits some RGB event. That a row run by itself works on one pixel, in states whose COLOR_CONVERT would emit none too,
moves to the next and ends no command is the model's choice (logs 3, 4 and 22). -/
def Obligations.YCbCrRowEmitsClampedRgb : Prop :=
  ∀ s f planes (l cb cr : Byte), s.dec.frame = some f → s.lines = some planes →
    pixelSample s f planes 0 = some l → pixelSample s f planes 1 = some cb →
    pixelSample s f planes 2 = some cr →
    ∃ r g b, exec .color3cYCbCrOutRgb s =
        .next (emitted (.rgb (BitVec.ofNat 16 s.px) (BitVec.ofNat 16 s.py) r g b) s) ∧
      (s.params.colorArith = .exact →
        r = clampRat (l.toNat + (1402 / 1000 : ℚ) * ((cr.toNat : ℚ) - 128)) ∧
        g = clampRat (l.toNat - (344136 / 1000000 : ℚ) * ((cb.toNat : ℚ) - 128) -
          (714136 / 1000000 : ℚ) * ((cr.toNat : ℚ) - 128)) ∧
        b = clampRat (l.toNat + (1772 / 1000 : ℚ) * ((cb.toNat : ℚ) - 128)))

/-- 46 R301, R302: CMYK and YCCK to RGB, whatever OUT_CS is. YCCK goes through YCbCr to RGB, in exact arithmetic
or in another COLOR_ARITH (00 R8), which R301's floor does not depend on (log 21). That a row run by itself works on
one pixel, in states whose COLOR_CONVERT would emit none too, moves to the next and ends no command is the model's
choice (logs 3, 4 and 22). -/
def Obligations.CmykAndYcckRowsEmitRgb : Prop :=
  ∀ s f planes (v₀ v₁ v₂ k : Byte), s.dec.frame = some f → s.lines = some planes →
    pixelSample s f planes 0 = some v₀ → pixelSample s f planes 1 = some v₁ →
    pixelSample s f planes 2 = some v₂ → pixelSample s f planes 3 = some k →
    let x := BitVec.ofNat 16 s.px
    let y := BitVec.ofNat 16 s.py
    let scale : Byte → Byte := fun a => clampRat ((a.toNat : ℚ) * k.toNat / 255)
    (∀ i, i = .color4cCmykOutYCbCr ∨ i = .color4cCmykOutRgb →
      exec i s = .next (emitted (.rgb x y (scale v₀) (scale v₁) (scale v₂)) s)) ∧
    ∃ red green blue,
      (∀ i, i = .color4cYcckOutYCbCr ∨ i = .color4cYcckOutRgb →
        exec i s = .next (emitted
          (.rgb x y (scale (255#8 - red)) (scale (255#8 - green)) (scale (255#8 - blue))) s)) ∧
      (s.params.colorArith = .exact →
        red = clampRat (v₀.toNat + (1402 / 1000 : ℚ) * ((v₂.toNat : ℚ) - 128)) ∧
        green = clampRat (v₀.toNat - (344136 / 1000000 : ℚ) * ((v₁.toNat : ℚ) - 128) -
          (714136 / 1000000 : ℚ) * ((v₂.toNat : ℚ) - 128)) ∧
        blue = clampRat (v₀.toNat + (1772 / 1000 : ℚ) * ((v₁.toNat : ℚ) - 128)))
end

