-- ==== Sys2Proof/Laws/State.lean ====
section
/-! SUPPORT. The fields of State after each shared update, so that no later proof unfolds a record update. -/

namespace Sys2Proof.Machine

@[simp] theorem finish_irqEn (s : State) : (finish s).irqEn = s.irqEn := rfl
@[simp] theorem finish_busy (s : State) : (finish s).busy = false := rfl
@[simp] theorem finish_done (s : State) : (finish s).done = true := rfl
@[simp] theorem finish_scanAborted (s : State) : (finish s).scanAborted = s.scanAborted := rfl
@[simp] theorem finish_overrun (s : State) : (finish s).overrun = s.overrun := rfl
@[simp] theorem finish_errCode (s : State) : (finish s).errCode = s.errCode := rfl
@[simp] theorem finish_abortCause (s : State) : (finish s).abortCause = s.abortCause := rfl
@[simp] theorem finish_pending (s : State) : (finish s).pending = s.pending := rfl
@[simp] theorem finish_streamLen (s : State) : (finish s).streamLen = s.streamLen := rfl
@[simp] theorem finish_streamPos (s : State) : (finish s).streamPos = s.streamPos := rfl
@[simp] theorem finish_lastMarker (s : State) : (finish s).lastMarker = s.lastMarker := rfl
@[simp] theorem finish_errPos (s : State) : (finish s).errPos = s.errPos := rfl
@[simp] theorem finish_frameCfg (s : State) : (finish s).frameCfg = s.frameCfg := rfl
@[simp] theorem finish_frameSize (s : State) : (finish s).frameSize = s.frameSize := rfl
@[simp] theorem finish_compCfg (s : State) : (finish s).compCfg = s.compCfg := rfl
@[simp] theorem finish_scanCfg (s : State) : (finish s).scanCfg = s.scanCfg := rfl
@[simp] theorem finish_scanComp (s : State) : (finish s).scanComp = s.scanComp := rfl
@[simp] theorem finish_restartInterval (s : State) : (finish s).restartInterval = s.restartInterval := rfl
@[simp] theorem finish_srcCsCfg (s : State) : (finish s).srcCsCfg = s.srcCsCfg := rfl
@[simp] theorem finish_outCfg (s : State) : (finish s).outCfg = s.outCfg := rfl
@[simp] theorem finish_outSize (s : State) : (finish s).outSize = s.outSize := rfl
@[simp] theorem finish_eobrunReg (s : State) : (finish s).eobrunReg = s.eobrunReg := rfl
@[simp] theorem finish_acStateReg (s : State) : (finish s).acStateReg = s.acStateReg := rfl
@[simp] theorem finish_dec (s : State) : (finish s).dec = s.dec := rfl
@[simp] theorem finish_lines (s : State) : (finish s).lines = s.lines := rfl
@[simp] theorem finish_qt (s : State) : (finish s).qt = s.qt := rfl
@[simp] theorem finish_dcTab (s : State) : (finish s).dcTab = s.dcTab := rfl
@[simp] theorem finish_acTab (s : State) : (finish s).acTab = s.acTab := rfl
@[simp] theorem finish_sink (s : State) : (finish s).sink = s.sink := rfl
@[simp] theorem finish_mem (s : State) : (finish s).mem = s.mem := rfl
@[simp] theorem finish_params (s : State) : (finish s).params = s.params := rfl
@[simp] theorem finish_px (s : State) : (finish s).px = s.px := rfl
@[simp] theorem finish_py (s : State) : (finish s).py = s.py := rfl
@[simp] theorem finish_faultSeen (s : State) : (finish s).faultSeen = s.faultSeen := rfl
@[simp] theorem finish_abortSeen (s : State) : (finish s).abortSeen = s.abortSeen := rfl
@[simp] theorem finish_discardSeen (s : State) : (finish s).discardSeen = s.discardSeen := rfl
@[simp] theorem finish_agenda (s : State) : (finish s).agenda = s.agenda := rfl
@[simp] theorem finish_readLog (s : State) : (finish s).readLog = s.readLog := rfl
@[simp] theorem finish_latch (s : State) : (finish s).latch = s.latch := rfl

@[simp] theorem raiseFatal_irqEn (c : ErrCode) (p : Word) (s : State) : (raiseFatal c p s).irqEn = s.irqEn := rfl
@[simp] theorem raiseFatal_busy (c : ErrCode) (p : Word) (s : State) : (raiseFatal c p s).busy = s.busy := rfl
@[simp] theorem raiseFatal_done (c : ErrCode) (p : Word) (s : State) : (raiseFatal c p s).done = s.done := rfl
@[simp] theorem raiseFatal_scanAborted (c : ErrCode) (p : Word) (s : State) : (raiseFatal c p s).scanAborted = s.scanAborted := rfl
@[simp] theorem raiseFatal_overrun (c : ErrCode) (p : Word) (s : State) : (raiseFatal c p s).overrun = s.overrun := rfl
@[simp] theorem raiseFatal_errCode (c : ErrCode) (p : Word) (s : State) : (raiseFatal c p s).errCode = c := rfl
@[simp] theorem raiseFatal_abortCause (c : ErrCode) (p : Word) (s : State) : (raiseFatal c p s).abortCause = s.abortCause := rfl
@[simp] theorem raiseFatal_pending (c : ErrCode) (p : Word) (s : State) : (raiseFatal c p s).pending = s.pending := rfl
@[simp] theorem raiseFatal_streamLen (c : ErrCode) (p : Word) (s : State) : (raiseFatal c p s).streamLen = s.streamLen := rfl
@[simp] theorem raiseFatal_streamPos (c : ErrCode) (p : Word) (s : State) : (raiseFatal c p s).streamPos = s.streamPos := rfl
@[simp] theorem raiseFatal_lastMarker (c : ErrCode) (p : Word) (s : State) : (raiseFatal c p s).lastMarker = s.lastMarker := rfl
@[simp] theorem raiseFatal_errPos (c : ErrCode) (p : Word) (s : State) : (raiseFatal c p s).errPos = p := rfl
@[simp] theorem raiseFatal_frameCfg (c : ErrCode) (p : Word) (s : State) : (raiseFatal c p s).frameCfg = s.frameCfg := rfl
@[simp] theorem raiseFatal_frameSize (c : ErrCode) (p : Word) (s : State) : (raiseFatal c p s).frameSize = s.frameSize := rfl
@[simp] theorem raiseFatal_compCfg (c : ErrCode) (p : Word) (s : State) : (raiseFatal c p s).compCfg = s.compCfg := rfl
@[simp] theorem raiseFatal_scanCfg (c : ErrCode) (p : Word) (s : State) : (raiseFatal c p s).scanCfg = s.scanCfg := rfl
@[simp] theorem raiseFatal_scanComp (c : ErrCode) (p : Word) (s : State) : (raiseFatal c p s).scanComp = s.scanComp := rfl
@[simp] theorem raiseFatal_restartInterval (c : ErrCode) (p : Word) (s : State) : (raiseFatal c p s).restartInterval = s.restartInterval := rfl
@[simp] theorem raiseFatal_srcCsCfg (c : ErrCode) (p : Word) (s : State) : (raiseFatal c p s).srcCsCfg = s.srcCsCfg := rfl
@[simp] theorem raiseFatal_outCfg (c : ErrCode) (p : Word) (s : State) : (raiseFatal c p s).outCfg = s.outCfg := rfl
@[simp] theorem raiseFatal_outSize (c : ErrCode) (p : Word) (s : State) : (raiseFatal c p s).outSize = s.outSize := rfl
@[simp] theorem raiseFatal_eobrunReg (c : ErrCode) (p : Word) (s : State) : (raiseFatal c p s).eobrunReg = s.eobrunReg := rfl
@[simp] theorem raiseFatal_acStateReg (c : ErrCode) (p : Word) (s : State) : (raiseFatal c p s).acStateReg = s.acStateReg := rfl
@[simp] theorem raiseFatal_dec (c : ErrCode) (p : Word) (s : State) : (raiseFatal c p s).dec = s.dec := rfl
@[simp] theorem raiseFatal_lines (c : ErrCode) (p : Word) (s : State) : (raiseFatal c p s).lines = s.lines := rfl
@[simp] theorem raiseFatal_qt (c : ErrCode) (p : Word) (s : State) : (raiseFatal c p s).qt = s.qt := rfl
@[simp] theorem raiseFatal_dcTab (c : ErrCode) (p : Word) (s : State) : (raiseFatal c p s).dcTab = s.dcTab := rfl
@[simp] theorem raiseFatal_acTab (c : ErrCode) (p : Word) (s : State) : (raiseFatal c p s).acTab = s.acTab := rfl
@[simp] theorem raiseFatal_sink (c : ErrCode) (p : Word) (s : State) : (raiseFatal c p s).sink = s.sink := rfl
@[simp] theorem raiseFatal_mem (c : ErrCode) (p : Word) (s : State) : (raiseFatal c p s).mem = s.mem := rfl
@[simp] theorem raiseFatal_params (c : ErrCode) (p : Word) (s : State) : (raiseFatal c p s).params = s.params := rfl
@[simp] theorem raiseFatal_px (c : ErrCode) (p : Word) (s : State) : (raiseFatal c p s).px = s.px := rfl
@[simp] theorem raiseFatal_py (c : ErrCode) (p : Word) (s : State) : (raiseFatal c p s).py = s.py := rfl
@[simp] theorem raiseFatal_faultSeen (c : ErrCode) (p : Word) (s : State) : (raiseFatal c p s).faultSeen = true := rfl
@[simp] theorem raiseFatal_abortSeen (c : ErrCode) (p : Word) (s : State) : (raiseFatal c p s).abortSeen = s.abortSeen := rfl
@[simp] theorem raiseFatal_discardSeen (c : ErrCode) (p : Word) (s : State) : (raiseFatal c p s).discardSeen = s.discardSeen := rfl
@[simp] theorem raiseFatal_agenda (c : ErrCode) (p : Word) (s : State) : (raiseFatal c p s).agenda = s.agenda := rfl
@[simp] theorem raiseFatal_readLog (c : ErrCode) (p : Word) (s : State) : (raiseFatal c p s).readLog = s.readLog := rfl
@[simp] theorem raiseFatal_latch (c : ErrCode) (p : Word) (s : State) : (raiseFatal c p s).latch = s.latch := rfl

@[simp] theorem discardCommand_irqEn (s : State) : (discardCommand s).irqEn = s.irqEn := rfl
@[simp] theorem discardCommand_busy (s : State) : (discardCommand s).busy = false := rfl
@[simp] theorem discardCommand_done (s : State) : (discardCommand s).done = true := rfl
@[simp] theorem discardCommand_scanAborted (s : State) : (discardCommand s).scanAborted = s.scanAborted := rfl
@[simp] theorem discardCommand_overrun (s : State) : (discardCommand s).overrun = true := rfl
@[simp] theorem discardCommand_errCode (s : State) : (discardCommand s).errCode = s.errCode := rfl
@[simp] theorem discardCommand_abortCause (s : State) : (discardCommand s).abortCause = s.abortCause := rfl
@[simp] theorem discardCommand_pending (s : State) : (discardCommand s).pending = s.pending := rfl
@[simp] theorem discardCommand_streamLen (s : State) : (discardCommand s).streamLen = s.streamLen := rfl
@[simp] theorem discardCommand_streamPos (s : State) : (discardCommand s).streamPos = s.streamPos := rfl
@[simp] theorem discardCommand_lastMarker (s : State) : (discardCommand s).lastMarker = s.lastMarker := rfl
@[simp] theorem discardCommand_errPos (s : State) : (discardCommand s).errPos = s.errPos := rfl
@[simp] theorem discardCommand_frameCfg (s : State) : (discardCommand s).frameCfg = s.frameCfg := rfl
@[simp] theorem discardCommand_frameSize (s : State) : (discardCommand s).frameSize = s.frameSize := rfl
@[simp] theorem discardCommand_compCfg (s : State) : (discardCommand s).compCfg = s.compCfg := rfl
@[simp] theorem discardCommand_scanCfg (s : State) : (discardCommand s).scanCfg = s.scanCfg := rfl
@[simp] theorem discardCommand_scanComp (s : State) : (discardCommand s).scanComp = s.scanComp := rfl
@[simp] theorem discardCommand_restartInterval (s : State) : (discardCommand s).restartInterval = s.restartInterval := rfl
@[simp] theorem discardCommand_srcCsCfg (s : State) : (discardCommand s).srcCsCfg = s.srcCsCfg := rfl
@[simp] theorem discardCommand_outCfg (s : State) : (discardCommand s).outCfg = s.outCfg := rfl
@[simp] theorem discardCommand_outSize (s : State) : (discardCommand s).outSize = s.outSize := rfl
@[simp] theorem discardCommand_eobrunReg (s : State) : (discardCommand s).eobrunReg = s.eobrunReg := rfl
@[simp] theorem discardCommand_acStateReg (s : State) : (discardCommand s).acStateReg = s.acStateReg := rfl
@[simp] theorem discardCommand_dec (s : State) : (discardCommand s).dec = s.dec := rfl
@[simp] theorem discardCommand_lines (s : State) : (discardCommand s).lines = s.lines := rfl
@[simp] theorem discardCommand_qt (s : State) : (discardCommand s).qt = s.qt := rfl
@[simp] theorem discardCommand_dcTab (s : State) : (discardCommand s).dcTab = s.dcTab := rfl
@[simp] theorem discardCommand_acTab (s : State) : (discardCommand s).acTab = s.acTab := rfl
@[simp] theorem discardCommand_sink (s : State) : (discardCommand s).sink = s.sink := rfl
@[simp] theorem discardCommand_mem (s : State) : (discardCommand s).mem = s.mem := rfl
@[simp] theorem discardCommand_params (s : State) : (discardCommand s).params = s.params := rfl
@[simp] theorem discardCommand_px (s : State) : (discardCommand s).px = s.px := rfl
@[simp] theorem discardCommand_py (s : State) : (discardCommand s).py = s.py := rfl
@[simp] theorem discardCommand_faultSeen (s : State) : (discardCommand s).faultSeen = s.faultSeen := rfl
@[simp] theorem discardCommand_abortSeen (s : State) : (discardCommand s).abortSeen = s.abortSeen := rfl
@[simp] theorem discardCommand_discardSeen (s : State) : (discardCommand s).discardSeen = true := rfl
@[simp] theorem discardCommand_agenda (s : State) : (discardCommand s).agenda = s.agenda := rfl
@[simp] theorem discardCommand_readLog (s : State) : (discardCommand s).readLog = s.readLog := rfl
@[simp] theorem discardCommand_latch (s : State) : (discardCommand s).latch = s.latch := rfl

@[simp] theorem scanProgress_irqEn (s : State) : (scanProgress s).irqEn = s.irqEn := rfl
@[simp] theorem scanProgress_busy (s : State) : (scanProgress s).busy = s.busy := rfl
@[simp] theorem scanProgress_done (s : State) : (scanProgress s).done = s.done := rfl
@[simp] theorem scanProgress_scanAborted (s : State) : (scanProgress s).scanAborted = s.scanAborted := rfl
@[simp] theorem scanProgress_overrun (s : State) : (scanProgress s).overrun = s.overrun := rfl
@[simp] theorem scanProgress_errCode (s : State) : (scanProgress s).errCode = s.errCode := rfl
@[simp] theorem scanProgress_abortCause (s : State) : (scanProgress s).abortCause = s.abortCause := rfl
@[simp] theorem scanProgress_pending (s : State) : (scanProgress s).pending = s.pending := rfl
@[simp] theorem scanProgress_streamLen (s : State) : (scanProgress s).streamLen = s.streamLen := rfl
@[simp] theorem scanProgress_streamPos (s : State) : (scanProgress s).streamPos = BitVec.ofNat 32 s.dec.cur := rfl
@[simp] theorem scanProgress_lastMarker (s : State) : (scanProgress s).lastMarker = s.lastMarker := rfl
@[simp] theorem scanProgress_errPos (s : State) : (scanProgress s).errPos = s.errPos := rfl
@[simp] theorem scanProgress_frameCfg (s : State) : (scanProgress s).frameCfg = s.frameCfg := rfl
@[simp] theorem scanProgress_frameSize (s : State) : (scanProgress s).frameSize = s.frameSize := rfl
@[simp] theorem scanProgress_compCfg (s : State) : (scanProgress s).compCfg = s.compCfg := rfl
@[simp] theorem scanProgress_scanCfg (s : State) : (scanProgress s).scanCfg = s.scanCfg := rfl
@[simp] theorem scanProgress_scanComp (s : State) : (scanProgress s).scanComp = s.scanComp := rfl
@[simp] theorem scanProgress_restartInterval (s : State) : (scanProgress s).restartInterval = s.restartInterval := rfl
@[simp] theorem scanProgress_srcCsCfg (s : State) : (scanProgress s).srcCsCfg = s.srcCsCfg := rfl
@[simp] theorem scanProgress_outCfg (s : State) : (scanProgress s).outCfg = s.outCfg := rfl
@[simp] theorem scanProgress_outSize (s : State) : (scanProgress s).outSize = s.outSize := rfl
@[simp] theorem scanProgress_eobrunReg (s : State) : (scanProgress s).eobrunReg = BitVec.ofNat 16 s.dec.eobrun := rfl
@[simp] theorem scanProgress_acStateReg (s : State) : (scanProgress s).acStateReg = s.dec.acState := rfl
@[simp] theorem scanProgress_dec (s : State) : (scanProgress s).dec = s.dec := rfl
@[simp] theorem scanProgress_lines (s : State) : (scanProgress s).lines = s.lines := rfl
@[simp] theorem scanProgress_qt (s : State) : (scanProgress s).qt = s.qt := rfl
@[simp] theorem scanProgress_dcTab (s : State) : (scanProgress s).dcTab = s.dcTab := rfl
@[simp] theorem scanProgress_acTab (s : State) : (scanProgress s).acTab = s.acTab := rfl
@[simp] theorem scanProgress_sink (s : State) : (scanProgress s).sink = s.sink := rfl
@[simp] theorem scanProgress_mem (s : State) : (scanProgress s).mem = s.mem := rfl
@[simp] theorem scanProgress_params (s : State) : (scanProgress s).params = s.params := rfl
@[simp] theorem scanProgress_px (s : State) : (scanProgress s).px = s.px := rfl
@[simp] theorem scanProgress_py (s : State) : (scanProgress s).py = s.py := rfl
@[simp] theorem scanProgress_faultSeen (s : State) : (scanProgress s).faultSeen = s.faultSeen := rfl
@[simp] theorem scanProgress_abortSeen (s : State) : (scanProgress s).abortSeen = s.abortSeen := rfl
@[simp] theorem scanProgress_discardSeen (s : State) : (scanProgress s).discardSeen = s.discardSeen := rfl
@[simp] theorem scanProgress_agenda (s : State) : (scanProgress s).agenda = s.agenda := rfl
@[simp] theorem scanProgress_readLog (s : State) : (scanProgress s).readLog = s.readLog := rfl
@[simp] theorem scanProgress_latch (s : State) : (scanProgress s).latch = s.latch := rfl

@[simp] theorem endScan_irqEn (m : Half) (s : State) : (endScan m s).irqEn = s.irqEn := rfl
@[simp] theorem endScan_busy (m : Half) (s : State) : (endScan m s).busy = s.busy := rfl
@[simp] theorem endScan_done (m : Half) (s : State) : (endScan m s).done = s.done := rfl
@[simp] theorem endScan_scanAborted (m : Half) (s : State) : (endScan m s).scanAborted = s.scanAborted := rfl
@[simp] theorem endScan_overrun (m : Half) (s : State) : (endScan m s).overrun = s.overrun := rfl
@[simp] theorem endScan_errCode (m : Half) (s : State) : (endScan m s).errCode = s.errCode := rfl
@[simp] theorem endScan_abortCause (m : Half) (s : State) : (endScan m s).abortCause = s.abortCause := rfl
@[simp] theorem endScan_pending (m : Half) (s : State) : (endScan m s).pending = s.pending := rfl
@[simp] theorem endScan_streamLen (m : Half) (s : State) : (endScan m s).streamLen = s.streamLen := rfl
@[simp] theorem endScan_streamPos (m : Half) (s : State) : (endScan m s).streamPos = BitVec.ofNat 32 s.dec.cur := rfl
@[simp] theorem endScan_lastMarker (m : Half) (s : State) : (endScan m s).lastMarker = m := rfl
@[simp] theorem endScan_errPos (m : Half) (s : State) : (endScan m s).errPos = s.errPos := rfl
@[simp] theorem endScan_frameCfg (m : Half) (s : State) : (endScan m s).frameCfg = s.frameCfg := rfl
@[simp] theorem endScan_frameSize (m : Half) (s : State) : (endScan m s).frameSize = s.frameSize := rfl
@[simp] theorem endScan_compCfg (m : Half) (s : State) : (endScan m s).compCfg = s.compCfg := rfl
@[simp] theorem endScan_scanCfg (m : Half) (s : State) : (endScan m s).scanCfg = s.scanCfg := rfl
@[simp] theorem endScan_scanComp (m : Half) (s : State) : (endScan m s).scanComp = s.scanComp := rfl
@[simp] theorem endScan_restartInterval (m : Half) (s : State) : (endScan m s).restartInterval = s.restartInterval := rfl
@[simp] theorem endScan_srcCsCfg (m : Half) (s : State) : (endScan m s).srcCsCfg = s.srcCsCfg := rfl
@[simp] theorem endScan_outCfg (m : Half) (s : State) : (endScan m s).outCfg = s.outCfg := rfl
@[simp] theorem endScan_outSize (m : Half) (s : State) : (endScan m s).outSize = s.outSize := rfl
@[simp] theorem endScan_eobrunReg (m : Half) (s : State) : (endScan m s).eobrunReg = BitVec.ofNat 16 s.dec.eobrun := rfl
@[simp] theorem endScan_acStateReg (m : Half) (s : State) : (endScan m s).acStateReg = s.dec.acState := rfl
@[simp] theorem endScan_dec (m : Half) (s : State) : (endScan m s).dec = s.dec := rfl
@[simp] theorem endScan_lines (m : Half) (s : State) : (endScan m s).lines = s.lines := rfl
@[simp] theorem endScan_qt (m : Half) (s : State) : (endScan m s).qt = s.qt := rfl
@[simp] theorem endScan_dcTab (m : Half) (s : State) : (endScan m s).dcTab = s.dcTab := rfl
@[simp] theorem endScan_acTab (m : Half) (s : State) : (endScan m s).acTab = s.acTab := rfl
@[simp] theorem endScan_sink (m : Half) (s : State) : (endScan m s).sink = s.sink := rfl
@[simp] theorem endScan_mem (m : Half) (s : State) : (endScan m s).mem = s.mem := rfl
@[simp] theorem endScan_params (m : Half) (s : State) : (endScan m s).params = s.params := rfl
@[simp] theorem endScan_px (m : Half) (s : State) : (endScan m s).px = s.px := rfl
@[simp] theorem endScan_py (m : Half) (s : State) : (endScan m s).py = s.py := rfl
@[simp] theorem endScan_faultSeen (m : Half) (s : State) : (endScan m s).faultSeen = s.faultSeen := rfl
@[simp] theorem endScan_abortSeen (m : Half) (s : State) : (endScan m s).abortSeen = s.abortSeen := rfl
@[simp] theorem endScan_discardSeen (m : Half) (s : State) : (endScan m s).discardSeen = s.discardSeen := rfl
@[simp] theorem endScan_agenda (m : Half) (s : State) : (endScan m s).agenda = s.agenda := rfl
@[simp] theorem endScan_readLog (m : Half) (s : State) : (endScan m s).readLog = s.readLog := rfl
@[simp] theorem endScan_latch (m : Half) (s : State) : (endScan m s).latch = s.latch := rfl

@[simp] theorem writeStatus_irqEn (w : Word) (s : State) : (writeStatus w s).irqEn = s.irqEn := rfl
@[simp] theorem writeStatus_busy (w : Word) (s : State) : (writeStatus w s).busy = s.busy := rfl
@[simp] theorem writeStatus_done (w : Word) (s : State) : (writeStatus w s).done = (s.done && !w.getLsbD 1) := rfl
@[simp] theorem writeStatus_scanAborted (w : Word) (s : State) : (writeStatus w s).scanAborted = (s.scanAborted && !w.getLsbD 3) := rfl
@[simp] theorem writeStatus_overrun (w : Word) (s : State) : (writeStatus w s).overrun = (s.overrun && !w.getLsbD 4) := rfl
@[simp] theorem writeStatus_errCode (w : Word) (s : State) : (writeStatus w s).errCode = s.errCode := rfl
@[simp] theorem writeStatus_abortCause (w : Word) (s : State) : (writeStatus w s).abortCause = s.abortCause := rfl
@[simp] theorem writeStatus_pending (w : Word) (s : State) : (writeStatus w s).pending = s.pending := rfl
@[simp] theorem writeStatus_streamLen (w : Word) (s : State) : (writeStatus w s).streamLen = s.streamLen := rfl
@[simp] theorem writeStatus_streamPos (w : Word) (s : State) : (writeStatus w s).streamPos = s.streamPos := rfl
@[simp] theorem writeStatus_lastMarker (w : Word) (s : State) : (writeStatus w s).lastMarker = s.lastMarker := rfl
@[simp] theorem writeStatus_errPos (w : Word) (s : State) : (writeStatus w s).errPos = s.errPos := rfl
@[simp] theorem writeStatus_frameCfg (w : Word) (s : State) : (writeStatus w s).frameCfg = s.frameCfg := rfl
@[simp] theorem writeStatus_frameSize (w : Word) (s : State) : (writeStatus w s).frameSize = s.frameSize := rfl
@[simp] theorem writeStatus_compCfg (w : Word) (s : State) : (writeStatus w s).compCfg = s.compCfg := rfl
@[simp] theorem writeStatus_scanCfg (w : Word) (s : State) : (writeStatus w s).scanCfg = s.scanCfg := rfl
@[simp] theorem writeStatus_scanComp (w : Word) (s : State) : (writeStatus w s).scanComp = s.scanComp := rfl
@[simp] theorem writeStatus_restartInterval (w : Word) (s : State) : (writeStatus w s).restartInterval = s.restartInterval := rfl
@[simp] theorem writeStatus_srcCsCfg (w : Word) (s : State) : (writeStatus w s).srcCsCfg = s.srcCsCfg := rfl
@[simp] theorem writeStatus_outCfg (w : Word) (s : State) : (writeStatus w s).outCfg = s.outCfg := rfl
@[simp] theorem writeStatus_outSize (w : Word) (s : State) : (writeStatus w s).outSize = s.outSize := rfl
@[simp] theorem writeStatus_eobrunReg (w : Word) (s : State) : (writeStatus w s).eobrunReg = s.eobrunReg := rfl
@[simp] theorem writeStatus_acStateReg (w : Word) (s : State) : (writeStatus w s).acStateReg = s.acStateReg := rfl
@[simp] theorem writeStatus_dec (w : Word) (s : State) : (writeStatus w s).dec = s.dec := rfl
@[simp] theorem writeStatus_lines (w : Word) (s : State) : (writeStatus w s).lines = s.lines := rfl
@[simp] theorem writeStatus_qt (w : Word) (s : State) : (writeStatus w s).qt = s.qt := rfl
@[simp] theorem writeStatus_dcTab (w : Word) (s : State) : (writeStatus w s).dcTab = s.dcTab := rfl
@[simp] theorem writeStatus_acTab (w : Word) (s : State) : (writeStatus w s).acTab = s.acTab := rfl
@[simp] theorem writeStatus_sink (w : Word) (s : State) : (writeStatus w s).sink = s.sink := rfl
@[simp] theorem writeStatus_mem (w : Word) (s : State) : (writeStatus w s).mem = s.mem := rfl
@[simp] theorem writeStatus_params (w : Word) (s : State) : (writeStatus w s).params = s.params := rfl
@[simp] theorem writeStatus_px (w : Word) (s : State) : (writeStatus w s).px = s.px := rfl
@[simp] theorem writeStatus_py (w : Word) (s : State) : (writeStatus w s).py = s.py := rfl
@[simp] theorem writeStatus_faultSeen (w : Word) (s : State) : (writeStatus w s).faultSeen = s.faultSeen := rfl
@[simp] theorem writeStatus_abortSeen (w : Word) (s : State) : (writeStatus w s).abortSeen = s.abortSeen := rfl
@[simp] theorem writeStatus_discardSeen (w : Word) (s : State) : (writeStatus w s).discardSeen = s.discardSeen := rfl
@[simp] theorem writeStatus_agenda (w : Word) (s : State) : (writeStatus w s).agenda = s.agenda := rfl
@[simp] theorem writeStatus_readLog (w : Word) (s : State) : (writeStatus w s).readLog = s.readLog := rfl
@[simp] theorem writeStatus_latch (w : Word) (s : State) : (writeStatus w s).latch = s.latch := rfl

@[simp] theorem abortScan_irqEn (c : AbortCause) (s : State) : (abortScan c s).irqEn = s.irqEn := rfl
@[simp] theorem abortScan_busy (c : AbortCause) (s : State) : (abortScan c s).busy = s.busy := rfl
@[simp] theorem abortScan_done (c : AbortCause) (s : State) : (abortScan c s).done = s.done := rfl
@[simp] theorem abortScan_scanAborted (c : AbortCause) (s : State) : (abortScan c s).scanAborted = true := rfl
@[simp] theorem abortScan_overrun (c : AbortCause) (s : State) : (abortScan c s).overrun = s.overrun := rfl
@[simp] theorem abortScan_errCode (c : AbortCause) (s : State) : (abortScan c s).errCode = s.errCode := rfl
@[simp] theorem abortScan_abortCause (c : AbortCause) (s : State) : (abortScan c s).abortCause = c := rfl
@[simp] theorem abortScan_pending (c : AbortCause) (s : State) : (abortScan c s).pending = s.pending := rfl
@[simp] theorem abortScan_streamLen (c : AbortCause) (s : State) : (abortScan c s).streamLen = s.streamLen := rfl
@[simp] theorem abortScan_streamPos (c : AbortCause) (s : State) : (abortScan c s).streamPos = BitVec.ofNat 32 s.dec.cur := rfl
@[simp] theorem abortScan_lastMarker (c : AbortCause) (s : State) : (abortScan c s).lastMarker = 0xFFD9#16 := rfl
@[simp] theorem abortScan_errPos (c : AbortCause) (s : State) : (abortScan c s).errPos = s.errPos := rfl
@[simp] theorem abortScan_frameCfg (c : AbortCause) (s : State) : (abortScan c s).frameCfg = s.frameCfg := rfl
@[simp] theorem abortScan_frameSize (c : AbortCause) (s : State) : (abortScan c s).frameSize = s.frameSize := rfl
@[simp] theorem abortScan_compCfg (c : AbortCause) (s : State) : (abortScan c s).compCfg = s.compCfg := rfl
@[simp] theorem abortScan_scanCfg (c : AbortCause) (s : State) : (abortScan c s).scanCfg = s.scanCfg := rfl
@[simp] theorem abortScan_scanComp (c : AbortCause) (s : State) : (abortScan c s).scanComp = s.scanComp := rfl
@[simp] theorem abortScan_restartInterval (c : AbortCause) (s : State) : (abortScan c s).restartInterval = s.restartInterval := rfl
@[simp] theorem abortScan_srcCsCfg (c : AbortCause) (s : State) : (abortScan c s).srcCsCfg = s.srcCsCfg := rfl
@[simp] theorem abortScan_outCfg (c : AbortCause) (s : State) : (abortScan c s).outCfg = s.outCfg := rfl
@[simp] theorem abortScan_outSize (c : AbortCause) (s : State) : (abortScan c s).outSize = s.outSize := rfl
@[simp] theorem abortScan_eobrunReg (c : AbortCause) (s : State) : (abortScan c s).eobrunReg = BitVec.ofNat 16 s.dec.eobrun := rfl
@[simp] theorem abortScan_acStateReg (c : AbortCause) (s : State) : (abortScan c s).acStateReg = s.dec.acState := rfl
@[simp] theorem abortScan_dec (c : AbortCause) (s : State) : (abortScan c s).dec = align s.dec := rfl
@[simp] theorem abortScan_lines (c : AbortCause) (s : State) : (abortScan c s).lines = s.lines := rfl
@[simp] theorem abortScan_qt (c : AbortCause) (s : State) : (abortScan c s).qt = s.qt := rfl
@[simp] theorem abortScan_dcTab (c : AbortCause) (s : State) : (abortScan c s).dcTab = s.dcTab := rfl
@[simp] theorem abortScan_acTab (c : AbortCause) (s : State) : (abortScan c s).acTab = s.acTab := rfl
@[simp] theorem abortScan_sink (c : AbortCause) (s : State) : (abortScan c s).sink = s.sink := rfl
@[simp] theorem abortScan_mem (c : AbortCause) (s : State) : (abortScan c s).mem = s.mem := rfl
@[simp] theorem abortScan_params (c : AbortCause) (s : State) : (abortScan c s).params = s.params := rfl
@[simp] theorem abortScan_px (c : AbortCause) (s : State) : (abortScan c s).px = s.px := rfl
@[simp] theorem abortScan_py (c : AbortCause) (s : State) : (abortScan c s).py = s.py := rfl
@[simp] theorem abortScan_faultSeen (c : AbortCause) (s : State) : (abortScan c s).faultSeen = s.faultSeen := rfl
@[simp] theorem abortScan_abortSeen (c : AbortCause) (s : State) : (abortScan c s).abortSeen = true := rfl
@[simp] theorem abortScan_discardSeen (c : AbortCause) (s : State) : (abortScan c s).discardSeen = s.discardSeen := rfl
@[simp] theorem abortScan_agenda (c : AbortCause) (s : State) : (abortScan c s).agenda = s.agenda := rfl
@[simp] theorem abortScan_readLog (c : AbortCause) (s : State) : (abortScan c s).readLog = s.readLog := rfl
@[simp] theorem abortScan_latch (c : AbortCause) (s : State) : (abortScan c s).latch = s.latch := rfl

@[simp] theorem align_frame (d : Decoder) : (align d).frame = d.frame := rfl
@[simp] theorem align_mode (d : Decoder) : (align d).mode = d.mode := rfl
@[simp] theorem align_ss (d : Decoder) : (align d).ss = d.ss := rfl
@[simp] theorem align_se (d : Decoder) : (align d).se = d.se := rfl
@[simp] theorem align_ah (d : Decoder) : (align d).ah = d.ah := rfl
@[simp] theorem align_al (d : Decoder) : (align d).al = d.al := rfl
@[simp] theorem align_scomps (d : Decoder) : (align d).scomps = d.scomps := rfl
@[simp] theorem align_eobrun (d : Decoder) : (align d).eobrun = d.eobrun := rfl
@[simp] theorem align_acState (d : Decoder) : (align d).acState = d.acState := rfl
@[simp] theorem align_acNext (d : Decoder) : (align d).acNext = d.acNext := rfl
@[simp] theorem align_cur (d : Decoder) : (align d).cur = d.cur := rfl
@[simp] theorem align_bitsData (d : Decoder) : (align d).bitsData = d.bitsData := rfl
@[simp] theorem align_bitsCount (d : Decoder) : (align d).bitsCount = 0 := rfl
@[simp] theorem align_mcuCount (d : Decoder) : (align d).mcuCount = d.mcuCount := rfl
@[simp] theorem align_mcuExpected (d : Decoder) : (align d).mcuExpected = d.mcuExpected := rfl
@[simp] theorem align_interval (d : Decoder) : (align d).interval = d.interval := rfl
@[simp] theorem align_blkComp (d : Decoder) : (align d).blkComp = d.blkComp := rfl
@[simp] theorem align_blkRow (d : Decoder) : (align d).blkRow = d.blkRow := rfl
@[simp] theorem align_blkCol (d : Decoder) : (align d).blkCol = d.blkCol := rfl
@[simp] theorem align_k (d : Decoder) : (align d).k = d.k := rfl
@[simp] theorem align_r (d : Decoder) : (align d).r = d.r := rfl

end Sys2Proof.Machine
end

