-- ==== Sys2Proof/Laws/Store.lean ====
section
/-! SUPPORT. The laws of maps and memories in canonical form: read after write, and that every operation keeps the form. -/

namespace Sys2Proof.Machine

variable {α : Type}

@[simp] theorem storeGet_nil (a : Nat) : storeGet a ([] : Store α) = none := rfl

theorem storeGet_storePut_same (a : Nat) (v : α) (m : Store α) : storeGet a (storePut a v m) = some v := by
  induction m with
  | nil => simp [storePut, storeGet]
  | cons e rest ih =>
    obtain ⟨b, w⟩ := e
    simp only [storePut]
    split
    · simp [storeGet]
    · split
      · simp [storeGet]
      · simp [storeGet, *]

theorem storeGet_storePut_other {a b : Nat} (h : a ≠ b) (v : α) (m : Store α) :
    storeGet a (storePut b v m) = storeGet a m := by
  induction m with
  | nil => simp [storePut, storeGet, h]
  | cons e rest ih =>
    obtain ⟨c, w⟩ := e
    simp only [storePut]
    split
    · simp [storeGet, h]
    · split
      · rename_i hbc; subst hbc; simp [storeGet, h]
      · simp [storeGet, ih]

/-- Every entry's key and value come from the put or from the old store. -/
theorem mem_storePut {a : Nat} {v : α} {m : Store α} {e : Nat × α} (h : e ∈ storePut a v m) :
    e = (a, v) ∨ e ∈ m := by
  induction m with
  | nil => simpa [storePut] using h
  | cons x rest ih =>
    obtain ⟨b, w⟩ := x
    simp only [storePut] at h
    split at h
    · simpa using h
    · split at h
      · simp at h; rcases h with h | h <;> simp [h]
      · simp at h
        rcases h with h | h
        · simp [h]
        · rcases ih h with h | h <;> simp [h]

theorem mem_storeDrop {a : Nat} {m : Store α} {e : Nat × α} (h : e ∈ storeDrop a m) : e ∈ m := by
  induction m with
  | nil => simp [storeDrop] at h
  | cons x rest ih =>
    obtain ⟨b, w⟩ := x
    simp only [storeDrop] at h
    split at h
    · simp [h]
    · simp at h
      rcases h with h | h
      · simp [h]
      · simp [ih h]

theorem rising_storePut (a : Nat) (v : α) {m : Store α} (h : Store.rising m) :
    Store.rising (storePut a v m) := by
  induction m with
  | nil => simp [Store.rising, storePut]
  | cons x rest ih =>
    obtain ⟨b, w⟩ := x
    simp only [Store.rising, List.map_cons, List.pairwise_cons] at h
    simp only [storePut]
    split
    · rename_i hab
      simp only [Store.rising, List.map_cons, List.pairwise_cons]
      refine ⟨fun c hc => ?_, h.1, h.2⟩
      simp at hc
      rcases hc with rfl | ⟨w, hc⟩
      · exact hab
      · exact hab.trans (h.1 c (List.mem_map.2 ⟨_, hc, rfl⟩))
    · split
      · rename_i hab; subst hab
        simpa only [Store.rising, List.map_cons, List.pairwise_cons] using h
      · simp only [Store.rising, List.map_cons, List.pairwise_cons]
        refine ⟨fun c hc => ?_, ih h.2⟩
        obtain ⟨e, he, rfl⟩ := List.mem_map.1 hc
        rcases mem_storePut he with rfl | he
        · simp; omega
        · exact h.1 _ (List.mem_map.2 ⟨e, he, rfl⟩)

theorem rising_storeDrop (a : Nat) {m : Store α} (h : Store.rising m) : Store.rising (storeDrop a m) := by
  induction m with
  | nil => simp [Store.rising, storeDrop]
  | cons x rest ih =>
    obtain ⟨b, w⟩ := x
    simp only [Store.rising, List.map_cons, List.pairwise_cons] at h
    simp only [storeDrop]
    split
    · exact h.2
    · simp only [Store.rising, List.map_cons, List.pairwise_cons]
      refine ⟨fun c hc => ?_, ih h.2⟩
      obtain ⟨e, he, rfl⟩ := List.mem_map.1 hc
      exact h.1 _ (List.mem_map.2 ⟨e, mem_storeDrop he, rfl⟩)

theorem storeGet_of_lt {a : Nat} {m : Store α} (h : ∀ e ∈ m, a < e.1) : storeGet a m = none := by
  induction m with
  | nil => rfl
  | cons x rest ih =>
    obtain ⟨b, w⟩ := x
    have hb := h (b, w) (by simp)
    simp only [storeGet]
    rw [if_neg (by simp at hb; omega)]
    exact ih fun e he => h e (by simp [he])

theorem storeGet_storeDrop_same (a : Nat) {m : Store α} (h : Store.rising m) :
    storeGet a (storeDrop a m) = none := by
  induction m with
  | nil => rfl
  | cons x rest ih =>
    obtain ⟨b, w⟩ := x
    simp only [Store.rising, List.map_cons, List.pairwise_cons] at h
    simp only [storeDrop]
    split
    · rename_i hab; subst hab
      exact storeGet_of_lt fun e he => h.1 _ (List.mem_map.2 ⟨e, he, rfl⟩)
    · simp [storeGet, *]

theorem storeGet_storeDrop_other {a b : Nat} (h : a ≠ b) (m : Store α) :
    storeGet a (storeDrop b m) = storeGet a m := by
  induction m with
  | nil => rfl
  | cons x rest ih =>
    obtain ⟨c, w⟩ := x
    simp only [storeDrop]
    split
    · rename_i hbc; subst hbc; simp [storeGet, h]
    · simp [storeGet, ih]

variable [DecidableEq α]

/-- A write to a memory changes the cell it names and leaves every other cell alone. -/
theorem cellGet_cellPut (dflt : α) (a b : Nat) (v : α) {m : Store α} (h : Store.rising m) :
    cellGet dflt a (cellPut dflt b v m) = if a = b then v else cellGet dflt a m := by
  unfold cellGet cellPut
  by_cases hab : a = b
  · subst hab
    by_cases hv : v = dflt
    · simp [hv, storeGet_storeDrop_same a h]
    · simp [hv, storeGet_storePut_same]
  · by_cases hv : v = dflt
    · simp [hv, hab, storeGet_storeDrop_other hab]
    · simp [hv, hab, storeGet_storePut_other hab]

/-- A write to another cell needs no form: the cell reads as before. -/
theorem cellGet_cellPut_other (dflt : α) {a b : Nat} (hab : a ≠ b) (v : α) (m : Store α) :
    cellGet dflt a (cellPut dflt b v m) = cellGet dflt a m := by
  unfold cellGet cellPut
  by_cases hv : v = dflt
  · simp [hv, storeGet_storeDrop_other hab]
  · simp [hv, storeGet_storePut_other hab]

theorem canonical_cellPut (dflt : α) (a : Nat) (v : α) {m : Store α} (h : Store.canonical dflt m) :
    Store.canonical dflt (cellPut dflt a v m) := by
  unfold cellPut
  split
  · exact ⟨rising_storeDrop a h.1, fun e he => h.2 e (mem_storeDrop he)⟩
  · rename_i hv
    refine ⟨rising_storePut a v h.1, fun e he => ?_⟩
    rcases mem_storePut he with rfl | he
    · exact hv
    · exact h.2 e he

/-- The keys of a memory after a write. -/
theorem mem_cellPut {dflt : α} {a : Nat} {v : α} {m : Store α} {e : Nat × α}
    (h : e ∈ cellPut dflt a v m) : e.1 = a ∨ e ∈ m := by
  unfold cellPut at h
  split at h
  · exact .inr (mem_storeDrop h)
  · rcases mem_storePut h with rfl | h
    · exact .inl rfl
    · exact .inr h

/-- A host write of stream memory keeps the canonical form. -/
theorem Memory.wf_write {m : List Host.Cell} (h : Memory.wf m) (a : Nat) (ha : a < 4294967296) (b : Byte) :
    Memory.wf (Memory.write m a b) := by
  refine ⟨canonical_cellPut _ _ _ h.1, fun e he => ?_⟩
  rcases mem_cellPut he with h' | h'
  · omega
  · exact h.2 e h'

/-- A read of stream memory after a write. -/
theorem Memory.read_write {m : List Host.Cell} (h : Memory.wf m) (a c : Nat) (b : Byte) :
    Memory.read (Memory.write m a b) c = if c = a then b else Memory.read m c :=
  cellGet_cellPut _ _ _ _ h.1.1

/-- Reset's stream memory lists nothing, so it has the form. -/
theorem Memory.wf_reset : Memory.wf State.reset.mem := by decide

end Sys2Proof.Machine
end

