-- ==== Sys2Proof/Laws/Ops.lean ====
section
/-! SUPPORT. What each shared operation can do, once: the ends of a command, the rules of a scan, the bit reader. -/

namespace Sys2Proof.Machine

/-! Sequencing of a scan's rules. -/

@[simp] theorem Res.andThen_ok {α β : Type} (a : α) (d : Decoder) (f : α → Decoder → Res β) :
    (Res.ok a d).andThen f = f a d := rfl

@[simp] theorem Res.andThen_raise {α β : Type} (e : Exit) (d : Decoder) (f : α → Decoder → Res β) :
    (Res.raise e d : Res α).andThen f = .raise e d := rfl

theorem Res.andThen_eq_ok {α β : Type} {x : Res α} {f : α → Decoder → Res β} {b : β} {d' : Decoder}
    (h : x.andThen f = .ok b d') : ∃ a d, x = .ok a d ∧ f a d = .ok b d' := by
  cases x with
  | ok a d => exact ⟨a, d, rfl, h⟩
  | raise e d => simp [Res.andThen] at h

theorem Res.andThen_eq_raise {α β : Type} {x : Res α} {f : α → Decoder → Res β} {e : Exit} {d' : Decoder}
    (h : x.andThen f = .raise e d') :
    x = .raise e d' ∨ ∃ a d, x = .ok a d ∧ f a d = .raise e d' := by
  cases x with
  | ok a d => exact .inr ⟨a, d, rfl, h⟩
  | raise e₀ d => simp [Res.andThen] at h; simp [h]

/-- What holds of a rule's decoder, however the rule ends. -/
def Res.All {α : Type} (p : Decoder → Prop) (x : Res α) : Prop :=
  match x with
  | .ok _ d => p d
  | .raise _ d => p d

@[simp] theorem Res.all_ok {α : Type} (p : Decoder → Prop) (a : α) (d : Decoder) :
    (Res.ok a d).All p ↔ p d := Iff.rfl

@[simp] theorem Res.all_raise {α : Type} (p : Decoder → Prop) (e : Exit) (d : Decoder) :
    (Res.raise e d : Res α).All p ↔ p d := Iff.rfl

theorem Res.All.andThen {α β : Type} {p : Decoder → Prop} {x : Res α} {f : α → Decoder → Res β}
    (hx : x.All p) (hf : ∀ a d, p d → (f a d).All p) : (x.andThen f).All p := by
  cases x with
  | ok a d => exact hf a d hx
  | raise e d => exact hx

theorem Res.All.imp {α : Type} {p q : Decoder → Prop} {x : Res α} (hx : x.All p) (h : ∀ d, p d → q d) :
    x.All q := by
  cases x with
  | ok a d => exact h d hx
  | raise e d => exact h d hx

/-! The ends of a command. -/

/-- A table, frame or build command always completes: with its new state, or with its error recorded
on the state from before it. -/
theorem endCommand_cases (s : State) (x : Except CommandError State) :
    (∃ t, x = .ok t ∧ endCommand s x = .next (finish t)) ∨
    (∃ e, x = .error e ∧ endCommand s x = .next (finish (raiseFatal e.code e.pos s))) := by
  cases x with
  | ok t => exact .inl ⟨t, rfl, rfl⟩
  | error e => exact .inr ⟨e, rfl, rfl⟩

@[simp] theorem fatalEnd_eq (c : ErrCode) (p : Word) (s : State) :
    fatalEnd c p s = .next (finish (raiseFatal c p s)) := rfl

/-- The ways a scan's early end answers. -/
theorem endScanBy_next {s t : State} {e : Exit} {d : Decoder} (h : endScanBy s e d = .next t) :
    (∃ c, e = .abort c ∧ t = finish (abortScan c { s with dec := d })) ∨
    (∃ m, e = .marker m ∧ t = finish (endScan m { s with dec := d })) ∨
    (∃ c, e = .check c ∧ t = finish (raiseFatal c s.streamPos s)) ∨
    (∃ c pos, e = .interval c pos ∧
      t = finish (raiseFatal c (BitVec.ofNat 32 pos) (scanProgress { s with dec := d }))) := by
  cases e <;> simp [endScanBy] at h <;> simp [h]

/-- A rule run by itself: it is out of sequence, it completes, or it ends early. -/
theorem runRule_cases (s : State) (rule : Decoder → Res Unit) :
    ((s.frameValid && !s.built) = false ∧ runRule s rule = .next (finish (raiseFatal .sequence s.streamPos s))) ∨
    ((s.frameValid && !s.built) = true ∧ ∃ d, rule s.dec = .ok () d ∧ runRule s rule = .next { s with dec := d }) ∨
    ((s.frameValid && !s.built) = true ∧ ∃ e d, rule s.dec = .raise e d ∧ runRule s rule = endScanBy s e d) := by
  unfold runRule
  split
  · rename_i h
    cases hr : rule s.dec with
    | ok a d => exact .inr (.inl ⟨h, d, by cases a; rfl, rfl⟩)
    | raise e d => exact .inr (.inr ⟨h, e, d, rfl, rfl⟩)
  · rename_i h
    exact .inl ⟨by simpa using h, rfl⟩

/-! The bit reader changes its own three fields only (41 R140). -/

/-- Equal but for the reader's cursor, byte and count. -/
def SameButReader (d d' : Decoder) : Prop :=
  d' = { d with cur := d'.cur, bitsData := d'.bitsData, bitsCount := d'.bitsCount }

theorem SameButReader.refl (d : Decoder) : SameButReader d d := rfl

theorem SameButReader.trans {a b c : Decoder} (h : SameButReader a b) (h' : SameButReader b c) :
    SameButReader a c := by
  unfold SameButReader at *
  rw [h'] ; rw [h]

theorem readBit_frame (src : Nat → Option Byte) (d : Decoder) :
    (readBit src d).All (SameButReader d) := by
  unfold readBit deliver
  repeat' split
  all_goals rfl

theorem readBit_count (src : Nat → Option Byte) (d : Decoder) (h : d.bitsCount ≤ 7) :
    (readBit src d).All fun d' => d'.bitsCount ≤ 7 := by
  unfold readBit deliver
  repeat' split
  all_goals simp
  all_goals omega

theorem receiveFrom_frame (src : Nat → Option Byte) (n : Nat) : ∀ v d,
    (receiveFrom src n v d).All (SameButReader d) := by
  induction n with
  | zero => exact fun v d => SameButReader.refl d
  | succ n ih =>
    intro v d
    exact Res.All.andThen (readBit_frame src d) fun b d' h => (ih _ d').imp fun _ h' => h.trans h'

theorem receive_frame (src : Nat → Option Byte) (n : Nat) (d : Decoder) :
    (receive src n d).All (SameButReader d) := receiveFrom_frame src n 0 d

theorem receiveExtend_frame (src : Nat → Option Byte) (n : Nat) (d : Decoder) :
    (receiveExtend src n d).All (SameButReader d) :=
  Res.All.andThen (receive_frame src n d) fun _ _ h => h

theorem huffmanFrom_frame (src : Nat → Option Byte) (t : HuffTable) (fuel : Nat) : ∀ len code d,
    (huffmanFrom src t fuel len code d).All (SameButReader d) := by
  induction fuel with
  | zero => exact fun _ _ d => SameButReader.refl d
  | succ n ih =>
    intro len code d
    refine Res.All.andThen (readBit_frame src d) fun b d' h => ?_
    dsimp only
    split
    · exact h
    · split
      · exact (ih _ _ d').imp fun _ h' => h.trans h'
      · exact h

theorem decodeHuffman_frame (src : Nat → Option Byte) (t : HuffTable) (d : Decoder) :
    (decodeHuffman src t d).All (SameButReader d) := huffmanFrom_frame src t 16 0 0 d

end Sys2Proof.Machine
end

