-- ==== Sys2Proof/Laws/Block.lean ====
section
/-! SUPPORT. What writing a coefficient or a predictor of the block being decoded does, once. -/

namespace Sys2Proof.Machine

/-! Nothing but the frame changes. -/

theorem modifyComp_frame (i : Nat) (g : Comp → Comp) (d : Decoder) :
    modifyComp i g d = { d with frame := (modifyComp i g d).frame } := by
  unfold modifyComp
  split <;> rfl

theorem modifyCur_frame (g : Comp → Comp) (d : Decoder) :
    modifyCur g d = { d with frame := (modifyCur g d).frame } := by
  unfold modifyCur
  split
  · exact modifyComp_frame _ _ _
  · rfl

theorem blkSet_frame (n : Nat) (v : Coef) (d : Decoder) :
    blkSet n v d = { d with frame := (blkSet n v d).frame } := modifyCur_frame _ d

theorem setCurPred_frame (v : Coef) (d : Decoder) :
    setCurPred v d = { d with frame := (setCurPred v d).frame } := modifyCur_frame _ d

/-- The components read after a change of component `i`. -/
theorem frameComp_modifyComp (i j : Nat) (g : Comp → Comp) (d : Decoder) :
    frameComp (modifyComp i g d) j = if i = j then (frameComp d j).map g else frameComp d j := by
  unfold modifyComp frameComp
  cases h : d.frame with
  | none => simp [h]
  | some f =>
    simp only [List.getElem?_modify]
    split <;> simp

@[simp] theorem curScanComp_modifyCur (g : Comp → Comp) (d : Decoder) :
    curScanComp (modifyCur g d) = curScanComp d := by
  rw [modifyCur_frame]; rfl

/-- The block's component after a change of it. -/
theorem curComp_modifyCur (g : Comp → Comp) (d : Decoder) :
    curComp (modifyCur g d) = (curComp d).map g := by
  unfold curComp
  rw [curScanComp_modifyCur]
  unfold modifyCur
  cases h : curScanComp d with
  | none => rfl
  | some sc => simp [frameComp_modifyComp]

/-- A component that the block does not belong to. -/
theorem frameComp_modifyCur_other {g : Comp → Comp} {d : Decoder} {i : Nat}
    (h : ∀ sc, curScanComp d = some sc → sc.comp ≠ i) : frameComp (modifyCur g d) i = frameComp d i := by
  unfold modifyCur
  split
  · rename_i sc hsc
    rw [frameComp_modifyComp, if_neg (h sc hsc)]
  · rfl

theorem blockHere_iff (d : Decoder) :
    blockHere d = true ↔ ∃ c, curComp d = some c ∧ d.blkRow < c.bpcm ∧ d.blkCol < c.bplm := by
  unfold blockHere
  cases curComp d <;> simp [Comp.hasBlock]

/-! A coefficient's key, and coefficients after a write. -/

/-- Distinct elements of a component's blocks have distinct keys. -/
theorem coefKey_inj {c : Comp} {row col n row' col' n' : Nat} (hc : col < c.bplm) (hc' : col' < c.bplm)
    (hn : n < 64) (hn' : n' < 64) (h : coefKey c row col n = coefKey c row' col' n') :
    row = row' ∧ col = col' ∧ n = n' := by
  unfold coefKey at h
  have h₁ : row * c.bplm + col = row' * c.bplm + col' := by omega
  have h₂ : n = n' := by omega
  have hb : 0 < c.bplm := by omega
  have h₃ : row = row' := by
    have := congrArg (· / c.bplm) h₁
    simpa [Nat.add_div_of_dvd_right, Nat.mul_div_cancel, Nat.div_eq_of_lt hc, Nat.div_eq_of_lt hc', hb,
      Nat.add_comm, Nat.add_mul_div_right, Nat.mul_comm] using this
  subst h₃
  exact ⟨rfl, by omega, h₂⟩

/-- A key lies inside its component's coefficient memory. -/
theorem coefKey_lt {c : Comp} {row col n : Nat} (hr : row < c.bpcm) (hc : col < c.bplm) (hn : n < 64) :
    coefKey c row col n < 64 * (c.bpcm * c.bplm) := by
  unfold coefKey
  have : row * c.bplm + c.bplm ≤ c.bpcm * c.bplm := by
    rw [← Nat.succ_mul]; exact Nat.mul_le_mul_right _ hr
  omega

/-- Reading a coefficient after writing one. -/
theorem coef_setCoef {c : Comp} (hw : Store.rising c.coefs) {row col n row' col' n' : Nat} (v : Coef)
    (hc : col < c.bplm) (hc' : col' < c.bplm) (hn : n < 64) (hn' : n' < 64) :
    (c.setCoef row' col' n' v).coef row col n =
      if row = row' ∧ col = col' ∧ n = n' then v else c.coef row col n := by
  unfold Comp.coef Comp.setCoef
  show cellGet 0#32 (coefKey c row col n) (cellPut 0#32 (coefKey c row' col' n') v c.coefs) = _
  rw [cellGet_cellPut _ _ _ _ hw]
  by_cases h : row = row' ∧ col = col' ∧ n = n'
  · obtain ⟨rfl, rfl, rfl⟩ := h; simp
  · rw [if_neg h, if_neg fun hk => h (coefKey_inj hc hc' hn hn' hk)]

/-- Reading the block after writing one of its coefficients. -/
theorem blkGet_blkSet {d : Decoder} {c : Comp} (hc : curComp d = some c) (hw : Store.rising c.coefs) (n m : Nat)
    (v : Coef) : blkGet m (blkSet n v d) = if m = n then v else blkGet m d := by
  have h : curComp (blkSet n v d) = some (c.setCoef d.blkRow d.blkCol n v) := by
    unfold blkSet; rw [curComp_modifyCur, hc]; rfl
  have hr : (blkSet n v d).blkRow = d.blkRow ∧ (blkSet n v d).blkCol = d.blkCol := by
    rw [blkSet_frame]; exact ⟨rfl, rfl⟩
  unfold blkGet
  rw [h, hc, hr.1, hr.2]
  show cellGet 0#32 (coefKey c d.blkRow d.blkCol m) (cellPut 0#32 (coefKey c d.blkRow d.blkCol n) v c.coefs) = _
  rw [cellGet_cellPut _ _ _ _ hw]
  have : coefKey c d.blkRow d.blkCol m = coefKey c d.blkRow d.blkCol n ↔ m = n := by
    unfold coefKey; omega
  simp only [this]
  rfl

/-- Writing a coefficient leaves the predictor. -/
theorem curPred_blkSet (n : Nat) (v : Coef) (d : Decoder) : curPred (blkSet n v d) = curPred d := by
  unfold curPred blkSet
  rw [curComp_modifyCur]
  cases curComp d <;> rfl

/-- Writing the predictor of an existing component. -/
theorem curPred_setCurPred {d : Decoder} {c : Comp} (hc : curComp d = some c) (v : Coef) :
    curPred (setCurPred v d) = v := by
  unfold curPred setCurPred
  rw [curComp_modifyCur, hc]
  rfl

/-- Writing the predictor leaves the block. -/
theorem blkGet_setCurPred (n : Nat) (v : Coef) (d : Decoder) : blkGet n (setCurPred v d) = blkGet n d := by
  have hr : (setCurPred v d).blkRow = d.blkRow ∧ (setCurPred v d).blkCol = d.blkCol := by
    rw [setCurPred_frame]; exact ⟨rfl, rfl⟩
  unfold blkGet
  rw [hr.1, hr.2]
  unfold setCurPred
  rw [curComp_modifyCur]
  cases curComp d <;> rfl

/-- The 64 positions, and no others, have a natural index below 64. -/
theorem zigzag_lt {k n : Nat} (h : zigzag k = some n) : k < 64 ∧ n < 64 := by
  have hk : k < 64 := by
    by_contra hk
    unfold zigzag at h
    rw [List.getElem?_eq_none (by show 64 ≤ k; omega)] at h
    cases h
  refine ⟨hk, ?_⟩
  have hall : ∀ k : Fin 64, ∀ n, zigzag k.val = some n → n < 64 := by decide
  exact hall ⟨k, hk⟩ n h

theorem zigzag_isSome {k : Nat} (h : k < 64) : ∃ n, zigzag k = some n := by
  have hall : ∀ k : Fin 64, (zigzag k.val).isSome = true := by decide
  exact Option.isSome_iff_exists.mp (hall ⟨k, h⟩)

/-- A rule on an existing block runs; there is no other block. -/
theorem onBlock_of_here {rule : Decoder → Res Unit} {d : Decoder} (h : blockHere d = true) :
    onBlock rule d = rule d := by
  unfold onBlock; rw [if_pos h]

theorem onBlock_ok {rule : Decoder → Res Unit} {d d' : Decoder} {u : Unit} (h : onBlock rule d = .ok u d') :
    blockHere d = true ∧ rule d = .ok u d' := by
  unfold onBlock at h
  split at h
  · rename_i hb; exact ⟨hb, h⟩
  · cases h

end Sys2Proof.Machine
end

