-- ==== Sys2Proof/Laws/Exec.lean ====
section
/-! SUPPORT. Everything each command and each shared row can do, once: what holds of the state where it answers a next state. -/

namespace Sys2Proof.Machine

/-- A table group that loads: the slot was empty, the bytes are there, and two fields change. -/
theorem dqtGroup_ok {wide : Bool} {tq : BitVec 4} {s u : State} (h : dqtGroup wide tq s = .ok u) :
    storeGet tq.toNat s.qt = none ∧ ∃ bytes,
      readBytes s (if wide then 128 else 64) (s.streamPos.toNat + 1) = .ok bytes ∧
      u = { s with
        qt := storePut tq.toNat (deZigzag (if wide then pairUp bytes else bytes.map (·.setWidth 16))) s.qt
        streamPos := BitVec.ofNat 32 (s.streamPos.toNat + 1 + if wide then 128 else 64) } := by
  simp only [dqtGroup] at h
  split at h
  · cases h
  · rename_i hs
    split at h
    · cases h
    · rename_i bytes hb
      cases h
      exact ⟨by simpa using hs, bytes, hb, rfl⟩

/-- `n` bytes read are `n` bytes. -/
theorem readBytes_length {s : State} : ∀ {n cur : Nat} {bytes : List Byte},
    readBytes s n cur = .ok bytes → bytes.length = n
  | 0, _, _, h => by cases h; rfl
  | n + 1, cur, _, h => by
    simp only [readBytes] at h
    split at h
    · cases h
    · split at h
      · rename_i bs hb
        cases h
        simp [readBytes_length hb]
      · cases h

/-- A Huffman group that loads: one table slot and STREAM_POS change. -/
theorem dhtGroup_ok {ac : Bool} {th : BitVec 2} {s u : State} (h : dhtGroup ac th s = .ok u) :
    ∃ counts vals table p,
      counts.length = 16 ∧ vals.length = counts.sum ∧ counts.sum ≤ s.params.htMaxSymbols ∧
      buildCanonical counts vals = some table ∧
      u = if ac then { s with streamPos := p, acTab := storePut th.toNat table s.acTab }
        else { s with streamPos := p, dcTab := storePut th.toNat table s.dcTab } := by
  simp only [dhtGroup] at h
  split at h
  · cases h
  · rename_i cb hcb
    split at h
    · cases h
    · rename_i hn
      split at h
      · cases h
      · rename_i vals hv
        split at h
        · cases h
        · rename_i table hT
          cases h
          exact ⟨_, vals, table, _, by simp [readBytes_length hcb], readBytes_length hv, by omega, hT,
            by cases ac <;> rfl⟩

/-- SET_FRAME latches its frame and changes nothing else. -/
theorem setFrame_ok {s u : State} (h : setFrame s = .ok u) :
    checkFrame s = none ∧ u = { s with dec := { s.dec with frame := some (mkFrame s) } } := by
  unfold setFrame at h
  split at h
  · cases h
  · rename_i hc; cases h; exact ⟨hc, rfl⟩

/-- BUILD_COMPONENTS writes the lines and changes nothing else. -/
theorem buildComponents_ok {s u : State} (h : buildComponents s = .ok u) :
    ∃ f planes, s.dec.frame = some f ∧ s.built = false ∧ buildPlanes s.params.idct s.qt f.comps = some planes ∧
      u = { s with lines := some planes } := by
  unfold buildComponents at h
  split at h
  · cases h
  · rename_i f hf
    split at h
    · cases h
    · rename_i hb
      split at h
      · cases h
      · rename_i planes hp
        cases h
        exact ⟨f, planes, hf, by simpa using hb, hp, rfl⟩

/-! The parameters IDCT8x8 and COLOR_ARITH (00 R8) at their defaults, and what is assumed of another arithmetic. -/

@[simp] theorem inverseTransform_standard (blk : Nat → Coef) (q : QTable) :
    inverseTransform .standard blk q = idct8x8 blk q := rfl

@[simp] theorem yccToRgb_exact (luma cb cr : Byte) : yccToRgb .exact luma cb cr = yccToRgbExact luma cb cr := rfl

@[simp] theorem sampleIndex_exact (coord size factor outSize maxFactor bound : Nat) :
    sampleIndex .exact coord size factor outSize maxFactor bound = coord * size * factor / (outSize * maxFactor) := rfl

/-- An index of another arithmetic stays inside the lines. -/
theorem sampleIndex_other_lt (i coord size factor outSize maxFactor : Nat) {bound : Nat} (h : 0 < bound) :
    sampleIndex (.other i) coord size factor outSize maxFactor bound < bound := by
  unfold sampleIndex
  dsimp only
  omega

/-- COLOR_CONVERT appends events, or records an error. -/
theorem execColorConvert_next {s t : State} (h : execColorConvert s = .next t) :
    (∃ c, t = finish (raiseFatal c s.streamPos s)) ∨ (∃ new, t = finish { s with sink := s.sink ++ new }) := by
  unfold execColorConvert at h
  split at h
  · split at h
    · cases h; exact .inl ⟨_, rfl⟩
    · split at h
      · cases h; exact .inl ⟨_, rfl⟩
      · unfold emitImage at h
        split at h
        · cases h
        · cases h; exact .inr ⟨_, rfl⟩
  · cases h; exact .inl ⟨_, rfl⟩

/-- A colour row appends one event and moves to the next pixel, or records SEQUENCE. -/
theorem emitPixel_next {cv : Conversion} {s t : State} (h : emitPixel cv s = .next t) :
    t = finish (raiseFatal .sequence s.streamPos s) ∨
    ∃ e, t = { s with sink := s.sink ++ [e], px := (nextPixel (outW s) s.px s.py).1,
                      py := (nextPixel (outW s) s.px s.py).2 } := by
  unfold emitPixel at h
  split at h
  · split at h
    · cases h
    · cases h; exact .inr ⟨_, rfl⟩
  · cases h; exact .inl rfl

/-- A marker row ends the scan, or records SEQUENCE. -/
theorem markerEndsScan_eq (m : Half) (s : State) :
    markerEndsScan m s = .next (if s.frameValid && !s.built then finish (endScan m s)
      else finish (raiseFatal .sequence s.streamPos s)) := by
  unfold markerEndsScan
  split <;> rfl

/-- RSTn starts the next interval, ends the scan, or records SEQUENCE. -/
theorem restartMarker_eq (m : Half) (s : State) :
    restartMarker m s = .next (if s.frameValid && !s.built then
        if s.dec.mcuCount < s.dec.mcuExpected then { s with dec := startInterval (align s.dec) }
        else finish (endScan m s)
      else finish (raiseFatal .sequence s.streamPos s)) := by
  unfold restartMarker
  split
  · split <;> rfl
  · rfl

/-- LOAD_DQT answers as one of its rows. -/
theorem execLoadDqt_next {s t : State} (h : execLoadDqt s = .next t) :
    (∃ c p, t = finish (raiseFatal c p s)) ∨ ∃ wide tq u, dqtGroup wide tq s = .ok u ∧ t = finish u := by
  have hg : ∀ wide tq, endCommand s (dqtGroup wide tq s) = .next t →
      (∃ c p, t = finish (raiseFatal c p s)) ∨ ∃ wide tq u, dqtGroup wide tq s = .ok u ∧ t = finish u := by
    intro wide tq h
    rcases endCommand_cases s (dqtGroup wide tq s) with ⟨u, hu, h'⟩ | ⟨e, _, h'⟩
    · rw [h'] at h; cases h; exact .inr ⟨wide, tq, u, hu, rfl⟩
    · rw [h'] at h; cases h; exact .inl ⟨_, _, rfl⟩
  unfold execLoadDqt at h
  split at h
  · cases h; exact .inl ⟨_, _, rfl⟩
  · simp only [dqtByte] at h
    repeat' split at h
    · exact hg _ _ h
    · exact hg _ _ h
    all_goals cases h; exact .inl ⟨_, _, rfl⟩

/-- LOAD_DHT answers as one of its rows. -/
theorem execLoadDht_next {s t : State} (h : execLoadDht s = .next t) :
    (∃ c p, t = finish (raiseFatal c p s)) ∨ ∃ ac th u, dhtGroup ac th s = .ok u ∧ t = finish u := by
  have hg : ∀ ac th, endCommand s (dhtGroup ac th s) = .next t →
      (∃ c p, t = finish (raiseFatal c p s)) ∨ ∃ ac th u, dhtGroup ac th s = .ok u ∧ t = finish u := by
    intro ac th h
    rcases endCommand_cases s (dhtGroup ac th s) with ⟨u, hu, h'⟩ | ⟨e, _, h'⟩
    · rw [h'] at h; cases h; exact .inr ⟨ac, th, u, hu, rfl⟩
    · rw [h'] at h; cases h; exact .inl ⟨_, _, rfl⟩
  unfold execLoadDht at h
  split at h
  · cases h; exact .inl ⟨_, _, rfl⟩
  · simp only [dhtByte] at h
    repeat' split at h
    · cases h; exact .inl ⟨_, _, rfl⟩
    · exact hg _ _ h
    · exact hg _ _ h

/-- DECODE_SCAN: a check fails, or the started scan ends by a marker or early. -/
theorem execDecodeScan_next {s t : State} (h : execDecodeScan s = .next t) :
    (∃ c, t = finish (raiseFatal c s.streamPos s)) ∨
    ∃ f, s.dec.frame = some f ∧ checkScan s f = none ∧
      ((∃ m d, t = finish (endScan m { startScan s f with dec := d })) ∨
        ∃ e d, endScanBy (startScan s f) e d = .next t) := by
  unfold execDecodeScan at h
  split at h
  · cases h; exact .inl ⟨_, rfl⟩
  · rename_i f hf
    split at h
    · cases h; exact .inl ⟨_, rfl⟩
    · rename_i hc
      refine .inr ⟨f, hf, hc, ?_⟩
      have hm : (startScan s f).dec.mode = some (scanModeOf s f) := rfl
      simp only [runScan, hm, scanOutcome] at h
      split at h
      · cases h; exact .inl ⟨_, _, rfl⟩
      · exact .inr ⟨_, _, h⟩

end Sys2Proof.Machine
end

