-- ==== Sys2Proof/Laws/PerInstr.lean ====
section
/-! SUPPORT. Statements made instruction by instruction: every encoded word fits its format's width (spec/30_encoding.md). -/

namespace Sys2Proof.Laws.WordFits

/-- The encoding of a well-formed instruction has no bit at or above its format's width. -/
def Statement (i : Instr) : Prop :=
  i.wf = true → (encode i).2 >>> (encode i).1.width = 0#32

/-- A byte value fits in eight bits. -/
theorem byte_fits (b : Byte) : (b.setWidth 32 : Word) >>> 8 = 0#32 := by
  apply BitVec.eq_of_toNat_eq
  have := b.isLt
  simp [BitVec.toNat_ushiftRight, Nat.shiftRight_eq_div_pow]
  omega

theorem nop : Statement (.nop) := fun _ => by decide
theorem clear : Statement (.clear) := fun _ => by decide
theorem loadDqt : Statement (.loadDqt) := fun _ => by decide
theorem loadDht : Statement (.loadDht) := fun _ => by decide
theorem setFrame : Statement (.setFrame) := fun _ => by decide
theorem decodeScan : Statement (.decodeScan) := fun _ => by decide
theorem buildComponents : Statement (.buildComponents) := fun _ => by decide
theorem colorConvert : Statement (.colorConvert) := fun _ => by decide
theorem illegalCmdLow (opcode : Byte) : Statement (.illegalCmdLow opcode) := fun _ => by
  simpa [encode, Format.width] using BitVec.ushiftRight_eq_zero (by omega)
theorem illegalCmdOther (w : Word) : Statement (.illegalCmdOther w) := fun _ => by
  simpa [encode, Format.width] using BitVec.ushiftRight_eq_zero (by omega)
theorem dqtGroup8 (tq : BitVec 4) : Statement (.dqtGroup8 tq) := fun _ => byte_fits _
theorem dqtGroup16 (tq : BitVec 4) : Statement (.dqtGroup16 tq) := fun _ => byte_fits _
theorem dqtReserved2 (pq tq : BitVec 4) : Statement (.dqtReserved2 pq tq) := fun _ => byte_fits _
theorem dqtReserved4 (pq tq : BitVec 4) : Statement (.dqtReserved4 pq tq) := fun _ => byte_fits _
theorem dqtReserved8 (pq tq : BitVec 4) : Statement (.dqtReserved8 pq tq) := fun _ => byte_fits _
theorem dhtGroupDc (th : BitVec 2) : Statement (.dhtGroupDc th) := fun _ => byte_fits _
theorem dhtGroupAc (th : BitVec 2) : Statement (.dhtGroupAc th) := fun _ => byte_fits _
theorem dhtReserved (tc th : BitVec 4) : Statement (.dhtReserved tc th) := fun _ => byte_fits _
theorem baseline (ssIs0 ahIs0 : Bool) : Statement (.baseline ssIs0 ahIs0) := by
  cases ssIs0 <;> cases ahIs0 <;> exact fun _ => by decide
theorem dcFirst : Statement (.dcFirst) := fun _ => by decide
theorem dcSucc : Statement (.dcSucc) := fun _ => by decide
theorem acFirst : Statement (.acFirst) := fun _ => by decide
theorem acSucc : Statement (.acSucc) := fun _ => by decide
theorem dcDiff (t : BitVec 4) : Statement (.dcDiff t) := fun _ => byte_fits _
theorem dcReserved16 (t : Byte) : Statement (.dcReserved16 t) := fun _ => byte_fits _
theorem dcReserved32 (t : Byte) : Statement (.dcReserved32 t) := fun _ => byte_fits _
theorem dcReserved64 (t : Byte) : Statement (.dcReserved64 t) := fun _ => byte_fits _
theorem dcReserved128 (t : Byte) : Statement (.dcReserved128 t) := fun _ => byte_fits _
theorem acZrl : Statement (.acZrl) := fun _ => by decide
theorem acEob0 (r : BitVec 4) : Statement (.acEob0 r) := fun _ => byte_fits _
theorem acEob8 (r : BitVec 4) : Statement (.acEob8 r) := fun _ => byte_fits _
theorem acEob12 (r : BitVec 4) : Statement (.acEob12 r) := fun _ => byte_fits _
theorem acEob14 : Statement (.acEob14) := fun _ => by decide
theorem acRunSize1 (r : BitVec 4) : Statement (.acRunSize1 r) := fun _ => byte_fits _
theorem acRunSize2 (r sz : BitVec 4) : Statement (.acRunSize2 r sz) := fun _ => byte_fits _
theorem acRunSize4 (r sz : BitVec 4) : Statement (.acRunSize4 r sz) := fun _ => byte_fits _
theorem acRunSize8 (r sz : BitVec 4) : Statement (.acRunSize8 r sz) := fun _ => byte_fits _
theorem dcSuccBit (b : Bool) : Statement (.dcSuccBit b) := by
  cases b <;> exact fun _ => by decide
theorem acSuccCorrectionBit (b : Bool) : Statement (.acSuccCorrectionBit b) := by
  cases b <;> exact fun _ => by decide
theorem soi : Statement (.soi) := fun _ => by decide
theorem eoi : Statement (.eoi) := fun _ => by decide
theorem rst (n : BitVec 3) : Statement (.rst n) := by
  unfold Statement; revert n; decide
theorem sof0 : Statement (.sof0) := fun _ => by decide
theorem sof2 : Statement (.sof2) := fun _ => by decide
theorem dht : Statement (.dht) := fun _ => by decide
theorem dqt : Statement (.dqt) := fun _ => by decide
theorem sos : Statement (.sos) := fun _ => by decide
theorem dri : Statement (.dri) := fun _ => by decide
theorem app (n : BitVec 4) : Statement (.app n) := by
  unfold Statement; revert n; decide
theorem com : Statement (.com) := fun _ => by decide
theorem stuffedFF : Statement (.stuffedFF) := fun _ => by decide
theorem color1cYCbCrOutYCbCr : Statement (.color1cYCbCrOutYCbCr) := fun _ => by decide
theorem color1cYCbCrOutRgb : Statement (.color1cYCbCrOutRgb) := fun _ => by decide
theorem color1cCmykOutYCbCr : Statement (.color1cCmykOutYCbCr) := fun _ => by decide
theorem color1cCmykOutRgb : Statement (.color1cCmykOutRgb) := fun _ => by decide
theorem color1cYcckOutYCbCr : Statement (.color1cYcckOutYCbCr) := fun _ => by decide
theorem color1cYcckOutRgb : Statement (.color1cYcckOutRgb) := fun _ => by decide
theorem color2cYCbCrOutYCbCr : Statement (.color2cYCbCrOutYCbCr) := fun _ => by decide
theorem color2cYCbCrOutRgb : Statement (.color2cYCbCrOutRgb) := fun _ => by decide
theorem color2cCmykOutYCbCr : Statement (.color2cCmykOutYCbCr) := fun _ => by decide
theorem color2cCmykOutRgb : Statement (.color2cCmykOutRgb) := fun _ => by decide
theorem color2cYcckOutYCbCr : Statement (.color2cYcckOutYCbCr) := fun _ => by decide
theorem color2cYcckOutRgb : Statement (.color2cYcckOutRgb) := fun _ => by decide
theorem color3cYCbCrOutYCbCr : Statement (.color3cYCbCrOutYCbCr) := fun _ => by decide
theorem color3cYCbCrOutRgb : Statement (.color3cYCbCrOutRgb) := fun _ => by decide
theorem color4cCmykOutYCbCr : Statement (.color4cCmykOutYCbCr) := fun _ => by decide
theorem color4cCmykOutRgb : Statement (.color4cCmykOutRgb) := fun _ => by decide
theorem color4cYcckOutYCbCr : Statement (.color4cYcckOutYCbCr) := fun _ => by decide
theorem color4cYcckOutRgb : Statement (.color4cYcckOutRgb) := fun _ => by decide
theorem colorModeOther (ncomp : BitVec 3) (src out : BitVec 2) : Statement (.colorModeOther ncomp src out) := by
  unfold Statement; revert ncomp src out; decide

end Sys2Proof.Laws.WordFits
end

