-- ==== Sys2Proof/Laws/Scan.lean ====
section
/-! SUPPORT. What a scan keeps, once: any property of a decoder that its rules' writes keep, and the two that matter, its outline and the form of its coefficient memory. -/

namespace Sys2Proof.Machine

/-- Equal but for what decoding a block changes outside the frame. -/
def SameButLocals (d d' : Decoder) : Prop :=
  d' = { d with
    eobrun := d'.eobrun, acState := d'.acState, acNext := d'.acNext, cur := d'.cur
    bitsData := d'.bitsData, bitsCount := d'.bitsCount, k := d'.k, r := d'.r }

theorem SameButReader.locals {d d' : Decoder} (h : SameButReader d d') : SameButLocals d d' := by
  unfold SameButLocals; rw [h]

/-- A property that every write of a block's rules keeps. -/
structure Stable (p : Decoder → Prop) : Prop where
  locals : ∀ {d d' : Decoder}, SameButLocals d d' → p d → p d'
  coef : ∀ {d : Decoder} {n : Nat} (v : Coef), n < 64 → p d → p (blkSet n v d)
  pred : ∀ {d : Decoder} (v : Coef), p d → p (setCurPred v d)

variable {p : Decoder → Prop}

/-! The reader. -/

theorem readBit_keeps (hp : Stable p) (src : Nat → Option Byte) {d : Decoder} (h : p d) : (readBit src d).All p :=
  (readBit_frame src d).imp fun _ h' => hp.locals h'.locals h

theorem receive_keeps (hp : Stable p) (src : Nat → Option Byte) (n : Nat) {d : Decoder} (h : p d) :
    (receive src n d).All p := (receive_frame src n d).imp fun _ h' => hp.locals h'.locals h

theorem receiveExtend_keeps (hp : Stable p) (src : Nat → Option Byte) (n : Nat) {d : Decoder} (h : p d) :
    (receiveExtend src n d).All p := (receiveExtend_frame src n d).imp fun _ h' => hp.locals h'.locals h

theorem decodeHuffman_keeps (hp : Stable p) (src : Nat → Option Byte) (t : HuffTable) {d : Decoder} (h : p d) :
    (decodeHuffman src t d).All p := (decodeHuffman_frame src t d).imp fun _ h' => hp.locals h'.locals h

/-! Writing the block. -/

theorem withPosition_keeps {k : Nat} {d : Decoder} {f : Nat → Res Unit} (h : p d)
    (hf : ∀ n, n < 64 → (f n).All p) : (withPosition k d f).All p := by
  unfold withPosition
  split
  · rename_i n hn; exact hf n (zigzag_lt hn).2
  · exact h

theorem placeAt_keeps (hp : Stable p) (v : Coef) {d : Decoder} (h : p d) : (placeAt v d).All p :=
  withPosition_keeps h fun n hn => hp.locals (d := blkSet n v d) rfl (hp.coef v hn h)

theorem refineHere_keeps (hp : Stable p) (m : RefineMode) (b : Bool) {d : Decoder} (h : p d) :
    (refineHere m b d).All p :=
  withPosition_keeps h fun n hn =>
    hp.locals (d := blkSet n (refine m (blkGet n d) b d.al) d) rfl (hp.coef _ hn h)

/-! Symbols and bits. -/

theorem dcCategory_keeps (hp : Stable p) (src : Nat → Option Byte) (sh t : Nat) {d : Decoder} (h : p d) :
    (dcCategory src sh t d).All p :=
  (receiveExtend_keeps hp src t h).andThen fun _ _ h' => hp.coef _ (by omega) (hp.pred _ h')

theorem dcSymbol_keeps (hp : Stable p) (src : Nat → Option Byte) (sh : Nat) (t : Byte) {d : Decoder} (h : p d) :
    (dcSymbol src sh t d).All p := by
  unfold dcSymbol
  split
  · exact h
  · exact dcCategory_keeps hp _ _ _ h

theorem acEob_keeps (hp : Stable p) (src : Nat → Option Byte) (a : AcKind) (r : Nat) {d : Decoder} (h : p d) :
    (acEob src a r d).All p := by
  cases a with
  | baseline => exact hp.locals (d := d) rfl h
  | first => exact (receive_keeps hp src r h).andThen fun _ d' h' => hp.locals (d := d') rfl h'
  | succ =>
    exact (receive_keeps hp src r (hp.locals (d := d) (d' := { d with r := r }) rfl h)).andThen
      fun _ d' h' => hp.locals (d := d') rfl h'

theorem acRun16_keeps (hp : Stable p) (a : AcKind) {d : Decoder} (h : p d) : (acRun16 a d).All p := by
  cases a <;> exact hp.locals (d := d) rfl h

theorem acRunSize_keeps (hp : Stable p) (src : Nat → Option Byte) (a : AcKind) (r sz : Nat) {d : Decoder} (h : p d) :
    (acRunSize src a r sz d).All p := by
  have hplace : ∀ limit sh, (acPlace src limit sh r sz d).All p := by
    intro limit sh
    have h₁ : p { d with k := d.k + r } := hp.locals (d := d) rfl h
    unfold acPlace
    dsimp only
    split
    · exact h₁
    · exact (receiveExtend_keeps hp src sz h₁).andThen fun _ _ h' => placeAt_keeps hp _ h'
  cases a with
  | baseline => exact hplace _ _
  | first => exact hplace _ _
  | succ =>
    have h₁ : p { d with r := r } := hp.locals (d := d) rfl h
    show (acPend src r sz d).All p
    unfold acPend
    split
    · exact h₁
    · exact (receiveExtend_keeps hp src 1 h₁).andThen fun _ d' h' => hp.locals (d := d') rfl h'

theorem acSymbol_keeps (hp : Stable p) (src : Nat → Option Byte) (a : AcKind) (rs : Byte) {d : Decoder} (h : p d) :
    (acSymbol src a rs d).All p := by
  unfold acSymbol
  dsimp only
  split
  · split
    · exact acEob_keeps hp _ _ _ h
    · exact acRun16_keeps hp _ h
  · exact acRunSize_keeps hp _ _ _ _ h

theorem dcRefineBit_keeps (hp : Stable p) (b : Bool) {d : Decoder} (h : p d) : p (dcRefineBit b d) :=
  hp.coef _ (by omega) h

/-! The routines. -/

theorem withTable_keeps {t : Option HuffTable} {d : Decoder} {f : HuffTable → Res Unit} (h : p d)
    (hf : ∀ table, (f table).All p) : (withTable t d f).All p := by
  unfold withTable
  split
  · exact hf _
  · exact h

theorem acLoop_keeps (hp : Stable p) (src : Nat → Option Byte) (a : AcKind) (ac : HuffTable) (fuel : Nat) :
    ∀ d, p d → (acLoop src a ac fuel d).All p := by
  induction fuel with
  | zero => exact fun _ h => h
  | succ n ih =>
    intro d h
    unfold acLoop
    split
    · exact h
    · exact (decodeHuffman_keeps hp src ac h).andThen fun rs _ h' =>
        (acSymbol_keeps hp src a rs h').andThen fun _ d'' h'' => ih d'' h''

theorem baselineBlock_keeps (hp : Stable p) (src : Nat → Option Byte) {d : Decoder} (h : p d) :
    (baselineBlock src d).All p :=
  withTable_keeps h fun dc => withTable_keeps h fun ac =>
    (decodeHuffman_keeps hp src dc h).andThen fun t _ h' =>
      (dcSymbol_keeps hp src 0 t h').andThen fun _ d'' h'' =>
        acLoop_keeps hp src .baseline ac 64 { d'' with k := 1 } (hp.locals (d := d'') rfl h'')

theorem dcFirstBlock_keeps (hp : Stable p) (src : Nat → Option Byte) {d : Decoder} (h : p d) :
    (dcFirstBlock src d).All p :=
  withTable_keeps h fun dc =>
    (decodeHuffman_keeps hp src dc h).andThen fun t d' h' => dcSymbol_keeps hp src d'.al t h'

theorem dcSuccBlock_keeps (hp : Stable p) (src : Nat → Option Byte) {d : Decoder} (h : p d) :
    (dcSuccBlock src d).All p := (readBit_keeps hp src h).andThen fun b _ h' => dcRefineBit_keeps hp b h'

theorem acFirstBlock_keeps (hp : Stable p) (src : Nat → Option Byte) {d : Decoder} (h : p d) :
    (acFirstBlock src d).All p :=
  withTable_keeps h fun ac => by
    split
    · exact hp.locals (d := d) rfl h
    · exact acLoop_keeps hp src .first ac 64 { d with k := d.ss } (hp.locals (d := d) rfl h)

theorem acVisit_keeps (hp : Stable p) (m : RefineMode) (src : Nat → Option Byte) {d : Decoder} (h : p d) :
    (acVisit m src d).All p :=
  withPosition_keeps h fun n _ => by
    split
    · exact (readBit_keeps hp src h).andThen fun b _ h' => refineHere_keeps hp m b h'
    · split
      · exact hp.locals (d := d) rfl h
      · exact hp.locals (d := d) rfl h
      · exact placeAt_keeps hp _ (hp.locals (d := d) (d' := { d with acState := .initial }) rfl h)
      · exact hp.locals (d := d) rfl h
      · exact h

theorem acSuccLoop_keeps (hp : Stable p) (m : RefineMode) (src : Nat → Option Byte) (ac : HuffTable) (fuel : Nat) :
    ∀ d, p d → (acSuccLoop m src ac fuel d).All p := by
  induction fuel with
  | zero => exact fun _ h => h
  | succ n ih =>
    intro d h
    unfold acSuccLoop
    split
    · exact h
    · refine Res.All.andThen ?_ fun _ _ h' => (acVisit_keeps hp m src h').andThen fun _ d'' h'' => ih d'' h''
      unfold acSuccSymbol
      split
      · exact (decodeHuffman_keeps hp src ac h).andThen fun rs _ h' => acSymbol_keeps hp src .succ rs h'
      · exact h

theorem acSuccBlock_keeps (hp : Stable p) (m : RefineMode) (src : Nat → Option Byte) {d : Decoder} (h : p d) :
    (acSuccBlock m src d).All p :=
  withTable_keeps h fun ac =>
    (acSuccLoop_keeps hp m src ac 64 { d with k := d.ss, r := 0 } (hp.locals (d := d) rfl h)).andThen
      fun _ d' h' => by
        unfold acSuccEnd
        split
        · exact h'
        · exact hp.locals (d := d') rfl h'
        · exact h'
        · exact h'
        · exact h'

/-- Every block-decode routine keeps a stable property. -/
theorem blockRoutine_keeps (hp : Stable p) (m : RefineMode) (src : Nat → Option Byte) (mode : ScanMode) {d : Decoder}
    (h : p d) : (blockRoutine m src mode d).All p := by
  cases mode with
  | baseline => exact baselineBlock_keeps hp src h
  | dcFirst => exact dcFirstBlock_keeps hp src h
  | dcSucc => exact dcSuccBlock_keeps hp src h
  | acFirst => exact acFirstBlock_keeps hp src h
  | acSucc => exact acSuccBlock_keeps hp m src h

/-! A scan's loops. A property of the whole scan holds on entry to each block, whichever is selected. -/

/-- `q` is kept by a routine on every existing block, and is about nothing that a scan's loops write. -/
structure ScanStable (routine : Decoder → Res Unit) (q : Decoder → Prop) : Prop where
  block : ∀ {d : Decoder}, blockHere d = true → q d → (routine d).All q
  select : ∀ {d : Decoder} (b : Nat × Nat × Nat), q d → q (selectBlock b d)
  count : ∀ {d : Decoder}, q d → q { d with mcuCount := d.mcuCount + 1 }
  align : ∀ {d : Decoder}, q d → q (align d)
  start : ∀ {d : Decoder}, q d → q (startInterval d)
  cursor : ∀ {d : Decoder} (c : Nat), q d → q { d with cur := c }

variable {routine : Decoder → Res Unit} {q : Decoder → Prop}

theorem decodeBlocks_keeps (hq : ScanStable routine q) (blocks : List (Nat × Nat × Nat)) :
    ∀ d, q d → (decodeBlocks routine blocks d).All q := by
  induction blocks with
  | nil => exact fun _ h => h
  | cons b rest ih =>
    intro d h
    refine Res.All.andThen ?_ fun _ d' h' => ih d' h'
    unfold onBlock
    split
    · rename_i hb; exact hq.block hb (hq.select b h)
    · exact hq.select b h

theorem decodeMcu_keeps (hq : ScanStable routine q) {d : Decoder} (h : q d) : (decodeMcu routine d).All q := by
  unfold decodeMcu
  split
  · exact decodeBlocks_keeps hq _ d h
  · exact h

theorem mcuLoop_keeps (hq : ScanStable routine q) (n : Nat) : ∀ d, q d → (mcuLoop routine n d).All q := by
  induction n with
  | zero => exact fun _ h => h
  | succ n ih =>
    intro d h
    unfold mcuLoop
    split
    · exact (decodeMcu_keeps hq h).andThen fun _ d' h' => ih _ (hq.count h')
    · exact h

theorem oneInterval_keeps (hq : ScanStable routine q) (src : Nat → Option Byte) {d : Decoder} (h : q d) :
    (oneInterval routine src d).All q :=
  (mcuLoop_keeps hq _ (startInterval d) (hq.start h)).andThen fun _ d' h' => by
    have ha := hq.align h'
    unfold endOfIntervalMarker
    repeat' split
    · exact ha
    · exact ha
    · exact ha
    · exact hq.cursor _ ha

/-- The whole of a scan after its start. -/
theorem intervals_keeps (hq : ScanStable routine q) (src : Nat → Option Byte) (n : Nat) :
    ∀ d, q d → (intervals routine src n d).All q := by
  induction n with
  | zero => exact fun d h => oneInterval_keeps hq src h
  | succ n ih =>
    exact fun d h => (oneInterval_keeps hq src h).andThen fun m d' h' => by
      split
      · exact ih d' h'
      · exact h'

/-! The outline: what no rule of a scan changes. -/

/-- A decoder without what decoding a block changes in it. -/
def Decoder.outline (d : Decoder) : Decoder :=
  { d with
    frame := d.frame.map Frame.outline
    eobrun := 0, acState := .initial, acNext := 0#32, cur := 0, bitsData := 0#8, bitsCount := 0, k := 0, r := 0 }

/-- A decoder without what a scan changes in it after its start. -/
def Decoder.scanOutline (d : Decoder) : Decoder :=
  { d.outline with blkComp := 0, blkRow := 0, blkCol := 0, mcuCount := 0 }

theorem outline_modifyComp (i : Nat) {g : Comp → Comp} (hg : ∀ c, (g c).outline = c.outline) (d : Decoder) :
    (modifyComp i g d).outline = d.outline := by
  unfold modifyComp
  cases h : d.frame with
  | none => rfl
  | some f =>
    have : (f.comps.modify i g).map Comp.outline = f.comps.map Comp.outline := by
      apply List.ext_getElem?
      intro j
      simp only [List.getElem?_map, List.getElem?_modify]
      cases f.comps[j]? with
      | none => simp
      | some c => by_cases hij : i = j <;> simp [hij, hg]
    simp [Decoder.outline, Frame.outline, h, this]

theorem outline_modifyCur {g : Comp → Comp} (hg : ∀ c, (g c).outline = c.outline) (d : Decoder) :
    (modifyCur g d).outline = d.outline := by
  unfold modifyCur
  split
  · exact outline_modifyComp _ hg d
  · rfl

@[simp] theorem outline_blkSet (n : Nat) (v : Coef) (d : Decoder) : (blkSet n v d).outline = d.outline :=
  outline_modifyCur (g := fun c => c.setCoef d.blkRow d.blkCol n v) (fun _ => rfl) d

@[simp] theorem outline_setCurPred (v : Coef) (d : Decoder) : (setCurPred v d).outline = d.outline :=
  outline_modifyCur (g := fun c => { c with pred := v }) (fun _ => rfl) d

theorem outline_locals {d d' : Decoder} (h : SameButLocals d d') : d'.outline = d.outline := by
  rw [h]; rfl

/-- Having a given outline is stable: every block-decode routine keeps the outline. -/
theorem stable_outline (o : Decoder) : Stable fun d => d.outline = o where
  locals h hd := (outline_locals h).trans hd
  coef v _ hd := (outline_blkSet _ v _).trans hd
  pred v hd := (outline_setCurPred v _).trans hd

theorem outline_resetPreds (scomps : List ScanComp) : ∀ d, (resetPreds scomps d).outline = d.outline := by
  induction scomps with
  | nil => exact fun _ => rfl
  | cons sc rest ih =>
    intro d
    exact (ih _).trans (outline_modifyComp _ (g := fun c => { c with pred := 0#32 }) (fun _ => rfl) d)

/-- The start of an interval keeps the outline. -/
theorem outline_startInterval (d : Decoder) : (startInterval d).outline = d.outline :=
  outline_resetPreds d.scomps d

theorem scanOutline_of_outline {d d' : Decoder} (h : d'.outline = d.outline) : d'.scanOutline = d.scanOutline := by
  unfold Decoder.scanOutline; rw [h]

/-- A scan keeps its outline. -/
theorem scanStable_outline (m : RefineMode) (src : Nat → Option Byte) (mode : ScanMode) (o : Decoder) :
    ScanStable (blockRoutine m src mode) fun d => d.scanOutline = o where
  block := fun {d} _ hd =>
    (blockRoutine_keeps (stable_outline d.outline) m src mode rfl).imp
      fun _ h => (scanOutline_of_outline h).trans hd
  select _ hd := hd
  count hd := hd
  align hd := hd
  start hd := (scanOutline_of_outline (outline_startInterval _)).trans hd
  cursor _ hd := hd

/-! Blocks and the outline. -/

/-- Whether the block being decoded exists depends on the outline only. -/
theorem blockHere_outline (d : Decoder) : blockHere d.outline = blockHere d := by
  have h : curComp d.outline = (curComp d).map Comp.outline := by
    unfold curComp curScanComp frameComp Decoder.outline
    dsimp only
    split
    · cases d.frame <;> simp [Frame.outline]
    · rfl
  unfold blockHere
  rw [h]
  cases curComp d <;> rfl

theorem blockHere_of_outline {d d' : Decoder} (h : d'.outline = d.outline) : blockHere d' = blockHere d := by
  rw [← blockHere_outline, h, blockHere_outline]

/-! The coefficient memory. -/

/-- A component's coefficient memory is canonical and lists no element outside its blocks (20 R64). -/
def Comp.coefsInside (c : Comp) : Prop :=
  Store.canonical 0#32 c.coefs ∧ ∀ e ∈ c.coefs, e.1 < 64 * (c.bpcm * c.bplm)

/-- Every component's coefficient memory is so. -/
def Decoder.coefsInside (d : Decoder) : Prop := ∀ i c, frameComp d i = some c → c.coefsInside

theorem coefsInside_setCoef {c : Comp} (h : c.coefsInside) {row col n : Nat} (v : Coef) (hr : row < c.bpcm)
    (hc : col < c.bplm) (hn : n < 64) : (c.setCoef row col n v).coefsInside := by
  refine ⟨canonical_cellPut _ _ _ h.1, fun e he => ?_⟩
  rcases mem_cellPut he with h' | h'
  · rw [h']; exact coefKey_lt hr hc hn
  · exact h.2 e h'

/-- Changing the block's component so that its memory stays inside keeps every component's. -/
theorem coefsInside_modifyCur {g : Comp → Comp} {d : Decoder} (h : d.coefsInside)
    (hg : ∀ c, curComp d = some c → (g c).coefsInside) : (modifyCur g d).coefsInside := by
  intro i c hc
  unfold modifyCur at hc
  cases hs : curScanComp d with
  | none => rw [hs] at hc; exact h i c hc
  | some sc =>
    rw [hs] at hc
    dsimp only at hc
    rw [frameComp_modifyComp] at hc
    split at hc
    · rename_i hi
      subst hi
      obtain ⟨c₀, h₀, rfl⟩ := Option.map_eq_some_iff.mp hc
      exact hg c₀ (by unfold curComp; rw [hs]; exact h₀)
    · exact h i c hc

/-- On an existing block the form of the coefficient memory is stable. -/
theorem stable_coefsInside : Stable fun d => blockHere d = true ∧ d.coefsInside where
  locals := by
    intro d d' h hd
    refine ⟨(blockHere_of_outline (outline_locals h)).trans hd.1, ?_⟩
    rw [h]; exact hd.2
  coef := by
    intro d n v hn hd
    refine ⟨(blockHere_of_outline (outline_blkSet _ _ _)).trans hd.1, coefsInside_modifyCur hd.2 fun c hc => ?_⟩
    obtain ⟨c', hc', hr, hcol⟩ := (blockHere_iff d).mp hd.1
    rw [hc] at hc'
    cases hc'
    refine coefsInside_setCoef ?_ v hr hcol hn
    unfold curComp at hc
    split at hc
    · exact hd.2 _ _ hc
    · cases hc
  pred := by
    intro d v hd
    refine ⟨(blockHere_of_outline (outline_setCurPred _ _)).trans hd.1, coefsInside_modifyCur hd.2 fun c hc => ?_⟩
    unfold curComp at hc
    split at hc
    · have hk : c.coefsInside := hd.2 _ c hc
      exact hk
    · cases hc

theorem coefsInside_resetPreds (scomps : List ScanComp) : ∀ d, d.coefsInside → (resetPreds scomps d).coefsInside := by
  induction scomps with
  | nil => exact fun _ h => h
  | cons sc rest ih =>
    intro d h
    refine ih _ fun i c hc => ?_
    rw [frameComp_modifyComp] at hc
    split at hc
    · obtain ⟨c₀, h₀, rfl⟩ := Option.map_eq_some_iff.mp hc
      exact h i c₀ h₀
    · exact h i c hc

/-- A scan keeps the form of the coefficient memory. -/
theorem scanStable_coefsInside (m : RefineMode) (src : Nat → Option Byte) (mode : ScanMode) :
    ScanStable (blockRoutine m src mode) Decoder.coefsInside where
  block hb hd := (blockRoutine_keeps stable_coefsInside m src mode ⟨hb, hd⟩).imp fun _ h => h.2
  select _ hd := hd
  count hd := hd
  align hd := hd
  start hd := coefsInside_resetPreds _ _ hd
  cursor _ hd := hd

end Sys2Proof.Machine
end

