-- ==== Sys2Proof/Tests/Slice0.lean ====
section
/-! SUPPORT. The model's own tests: ill-formed terms, words written out from the spec's encodings, single steps whose results come from spec/, and a witness for the hypotheses of every statement. -/

open Sys2Proof Sys2Proof.Machine Sys2Proof.Safety

namespace Sys2Proof.Tests

/-! Ill-formed terms, one for each check of WellFormed. -/

theorem test_wf_refuses_out_of_range_operands :
    (Instr.illegalCmdLow 7#8).wf = false ∧ (Instr.illegalCmdLow 16#8).wf = false ∧
    (Instr.illegalCmdOther 15#32).wf = false ∧
    (Instr.dqtReserved2 1#4 0#4).wf = false ∧ (Instr.dqtReserved2 4#4 0#4).wf = false ∧
    (Instr.dqtReserved4 3#4 0#4).wf = false ∧ (Instr.dqtReserved4 8#4 0#4).wf = false ∧
    (Instr.dqtReserved8 7#4 0#4).wf = false ∧ (Instr.dhtReserved 1#4 3#4).wf = false ∧
    (Instr.dcReserved16 15#8).wf = false ∧ (Instr.dcReserved16 32#8).wf = false ∧
    (Instr.dcReserved32 31#8).wf = false ∧ (Instr.dcReserved32 64#8).wf = false ∧
    (Instr.dcReserved64 63#8).wf = false ∧ (Instr.dcReserved64 128#8).wf = false ∧
    (Instr.dcReserved128 127#8).wf = false := by decide

theorem test_wf_refuses_out_of_range_symbols :
    (Instr.acEob0 8#4).wf = false ∧ (Instr.acEob8 7#4).wf = false ∧ (Instr.acEob8 12#4).wf = false ∧
    (Instr.acEob12 11#4).wf = false ∧ (Instr.acEob12 14#4).wf = false ∧
    (Instr.acRunSize2 0#4 1#4).wf = false ∧ (Instr.acRunSize2 0#4 4#4).wf = false ∧
    (Instr.acRunSize4 0#4 3#4).wf = false ∧ (Instr.acRunSize4 0#4 8#4).wf = false ∧
    (Instr.acRunSize8 0#4 7#4).wf = false ∧ (Instr.colorModeOther 3#3 0#2 1#2).wf = false := by decide

theorem test_wf_accepts_range_ends :
    (Instr.illegalCmdLow 8#8).wf = true ∧ (Instr.illegalCmdOther 16#32).wf = true ∧
    (Instr.dhtReserved 2#4 0#4).wf = true ∧ (Instr.dhtReserved 0#4 4#4).wf = true ∧
    (Instr.dcReserved128 255#8).wf = true ∧ (Instr.acEob12 13#4).wf = true ∧
    (Instr.colorModeOther 3#3 2#2 0#2).wf = true := by decide

/-! Every constructor's word, written out from the tables of spec/30_encoding.md. -/

/-- 30 R82 to R84. -/
theorem test_decode_cmd :
    decode .cmd 0x00000000#32 = .ok .nop ∧ decode .cmd 0x00000001#32 = .ok .clear ∧
    decode .cmd 0x00000002#32 = .ok .loadDqt ∧ decode .cmd 0x00000003#32 = .ok .loadDht ∧
    decode .cmd 0x00000004#32 = .ok .setFrame ∧ decode .cmd 0x00000005#32 = .ok .decodeScan ∧
    decode .cmd 0x00000006#32 = .ok .buildComponents ∧ decode .cmd 0x00000007#32 = .ok .colorConvert ∧
    decode .cmd 0x00000008#32 = .ok (.illegalCmdLow 0x08#8) ∧
    decode .cmd 0x0000000F#32 = .ok (.illegalCmdLow 0x0F#8) ∧
    decode .cmd 0x00000010#32 = .ok (.illegalCmdOther 0x10#32) ∧
    decode .cmd 0x00000105#32 = .ok (.illegalCmdOther 0x105#32) ∧
    decode .cmd 0x80000000#32 = .ok (.illegalCmdOther 0x80000000#32) := by decide

/-- 30 R88, R89, R101: the high nibble is Pq or Tc, the low one Tq or Th. -/
theorem test_decode_table_bytes :
    decode .dqtPqTq 0x0A#32 = .ok (.dqtGroup8 10#4) ∧ decode .dqtPqTq 0x1F#32 = .ok (.dqtGroup16 15#4) ∧
    decode .dqtPqTq 0x35#32 = .ok (.dqtReserved2 3#4 5#4) ∧
    decode .dqtPqTq 0x71#32 = .ok (.dqtReserved4 7#4 1#4) ∧
    decode .dqtPqTq 0x80#32 = .ok (.dqtReserved8 8#4 0#4) ∧
    decode .dhtTcTh 0x03#32 = .ok (.dhtGroupDc 3#2) ∧ decode .dhtTcTh 0x11#32 = .ok (.dhtGroupAc 1#2) ∧
    decode .dhtTcTh 0x20#32 = .ok (.dhtReserved 2#4 0#4) ∧
    decode .dhtTcTh 0x14#32 = .ok (.dhtReserved 1#4 4#4) := by decide

/-- 30 R97. -/
theorem test_decode_scan_mode :
    decode .scanMode 0#32 = .ok (.baseline false false) ∧ decode .scanMode 1#32 = .ok (.baseline false true) ∧
    decode .scanMode 2#32 = .ok (.baseline true false) ∧ decode .scanMode 3#32 = .ok (.baseline true true) ∧
    decode .scanMode 4#32 = .ok .acSucc ∧ decode .scanMode 5#32 = .ok .acFirst ∧
    decode .scanMode 6#32 = .ok .dcSucc ∧ decode .scanMode 7#32 = .ok .dcFirst := by decide

/-- 30 R91. -/
theorem test_decode_dc_symbol :
    decode .dcSymbol 0x0F#32 = .ok (.dcDiff 15#4) ∧ decode .dcSymbol 0x10#32 = .ok (.dcReserved16 16#8) ∧
    decode .dcSymbol 0x2A#32 = .ok (.dcReserved32 42#8) ∧ decode .dcSymbol 0x7F#32 = .ok (.dcReserved64 127#8) ∧
    decode .dcSymbol 0xFF#32 = .ok (.dcReserved128 255#8) := by decide

/-- 30 R92: r is the high nibble, s the low one. -/
theorem test_decode_ac_symbol :
    decode .acSymbol 0xF0#32 = .ok .acZrl ∧ decode .acSymbol 0x00#32 = .ok (.acEob0 0#4) ∧
    decode .acSymbol 0x70#32 = .ok (.acEob0 7#4) ∧ decode .acSymbol 0xB0#32 = .ok (.acEob8 11#4) ∧
    decode .acSymbol 0xC0#32 = .ok (.acEob12 12#4) ∧ decode .acSymbol 0xE0#32 = .ok .acEob14 ∧
    decode .acSymbol 0xF1#32 = .ok (.acRunSize1 15#4) ∧ decode .acSymbol 0x13#32 = .ok (.acRunSize2 1#4 3#4) ∧
    decode .acSymbol 0x56#32 = .ok (.acRunSize4 5#4 6#4) ∧ decode .acSymbol 0x0F#32 = .ok (.acRunSize8 0#4 15#4) ∧
    decode .dcSuccBit 0#32 = .ok (.dcSuccBit false) ∧ decode .acSuccBit 1#32 = .ok (.acSuccCorrectionBit true) := by
  decide

/-- 30 R86, 41 R143: two bytes, the first in the high half. -/
theorem test_decode_marker :
    decodeMarkerBytes 0xFF#8 0xD8#8 = some .soi ∧ decodeMarkerBytes 0xFF#8 0xD9#8 = some .eoi ∧
    decodeMarkerBytes 0xFF#8 0xD6#8 = some (.rst 6#3) ∧ decodeMarkerBytes 0xFF#8 0xC0#8 = some .sof0 ∧
    decodeMarkerBytes 0xFF#8 0xC2#8 = some .sof2 ∧ decodeMarkerBytes 0xFF#8 0xC4#8 = some .dht ∧
    decodeMarkerBytes 0xFF#8 0xDB#8 = some .dqt ∧ decodeMarkerBytes 0xFF#8 0xDA#8 = some .sos ∧
    decodeMarkerBytes 0xFF#8 0xDD#8 = some .dri ∧ decodeMarkerBytes 0xFF#8 0xEE#8 = some (.app 14#4) ∧
    decodeMarkerBytes 0xFF#8 0xFE#8 = some .com ∧ decodeMarkerBytes 0xFF#8 0x00#8 = some .stuffedFF ∧
    decodeMarkerBytes 0xFF#8 0xC1#8 = none ∧ decodeMarkerBytes 0xD8#8 0xFF#8 = none := by decide

/-- 30 R99: NCOMP in bits 6:4, the source colour space in bits 3:2, OUT_CS in bits 1:0. -/
theorem test_decode_color :
    decode .colorDispatch 0b0010000#32 = .ok .color1cYCbCrOutYCbCr ∧
    decode .colorDispatch 0b0010001#32 = .ok .color1cYCbCrOutRgb ∧
    decode .colorDispatch 0b0011000#32 = .ok .color1cCmykOutYCbCr ∧
    decode .colorDispatch 0b0011001#32 = .ok .color1cCmykOutRgb ∧
    decode .colorDispatch 0b0011100#32 = .ok .color1cYcckOutYCbCr ∧
    decode .colorDispatch 0b0011101#32 = .ok .color1cYcckOutRgb ∧
    decode .colorDispatch 0b0100000#32 = .ok .color2cYCbCrOutYCbCr ∧
    decode .colorDispatch 0b0100001#32 = .ok .color2cYCbCrOutRgb ∧
    decode .colorDispatch 0b0101000#32 = .ok .color2cCmykOutYCbCr ∧
    decode .colorDispatch 0b0101001#32 = .ok .color2cCmykOutRgb ∧
    decode .colorDispatch 0b0101100#32 = .ok .color2cYcckOutYCbCr ∧
    decode .colorDispatch 0b0101101#32 = .ok .color2cYcckOutRgb ∧
    decode .colorDispatch 0b0110000#32 = .ok .color3cYCbCrOutYCbCr ∧
    decode .colorDispatch 0b0110001#32 = .ok .color3cYCbCrOutRgb ∧
    decode .colorDispatch 0b1001000#32 = .ok .color4cCmykOutYCbCr ∧
    decode .colorDispatch 0b1001001#32 = .ok .color4cCmykOutRgb ∧
    decode .colorDispatch 0b1001100#32 = .ok .color4cYcckOutYCbCr ∧
    decode .colorDispatch 0b1001101#32 = .ok .color4cYcckOutRgb ∧
    decode .colorDispatch 0b0111000#32 = .ok (.colorModeOther 3#3 2#2 0#2) := by decide

/-- Bits above a format's width are refused by name. -/
theorem test_decode_refuses_by_name :
    decode .dqtPqTq 0x100#32 = .error (.bitsAboveWidth .dqtPqTq) ∧
    decode .scanMode 8#32 = .error (.bitsAboveWidth .scanMode) ∧
    decode .marker 0xFFC1#32 = .error (.unknownMarker 0xFFC1#16) := by decide

/-- The table's words as decodeTableWord reads them (log 3, log 18). -/
theorem test_decode_table_word :
    decodeTableWord 32 5 = some .decodeScan ∧ decodeTableWord 16 0xFFDA = some .sos ∧
    decodeTableWord 8 0x31 = some .color3cYCbCrOutRgb ∧ decodeTableWord 8 0x12 = some (.dhtGroupAc 2#2) := by
  decide

/-! Small states. -/

/-- These bytes from address 0, in memory's canonical form. -/
def streamOf (bs : List Byte) : List Host.Cell :=
  (bs.zipIdx.filter fun p => p.1 != 0#8).map fun p => (p.2, p.1)

/-- The state after reset with a stream. -/
def onStream (bs : List Byte) : State :=
  { State.reset with mem := streamOf bs, streamLen := BitVec.ofNat 32 bs.length }

/-- The next state, if there is one. -/
def answer (r : Result) : Option State :=
  match r with
  | .next t => some t
  | .fault _ => none
  | .refused _ => none

/-- The tables of program P1 (spec/95_test_vectors.md): counts and values. -/
def dcCounts : List Nat := [0, 1, 5, 1, 1, 1, 1, 1, 1]
def dcVals : List Byte := [0, 1, 2, 3, 4, 5, 6, 7, 8, 9, 10, 11]
def acCounts : List Nat := [0, 2, 2, 2]
def acVals : List Byte := [0x00, 0x01, 0x02, 0x11, 0xF0, 0x21]
def dcT : HuffTable := (buildCanonical dcCounts dcVals).getD []
def acT : HuffTable := (buildCanonical acCounts acVals).getD []

/-- The PAC table of vector 2.2.3. -/
def pacT : HuffTable := (buildCanonical [0, 2, 2, 3] [0x00, 0x01, 0x10, 0x11, 0x20, 0xF0, 0x21]).getD []

/-- An 8 × 8 frame of one component configured, and a scan of it: P1's register values. -/
def grayCfg (progressive : Bool) : State :=
  { State.reset with
    frameCfg := if progressive then 0x00010801#32 else 0x00010800#32
    frameSize := 0x00080008#32, compCfg := ⟨0x1101#32, 0#32, 0#32, 0#32⟩
    scanCfg := 0x003F0001#32, scanComp := ⟨1#32, 0#32, 0#32, 0#32⟩
    dcTab := [(0, dcT)], acTab := [(0, if progressive then pacT else acT)], qt := [(0, Vector.replicate 64 16#16)] }

/-- That frame latched, in the middle of a scan at its one block, reading `bs`. -/
def gray (progressive : Bool) (mode : Option ScanMode) (bs : List Byte) : State :=
  { grayCfg progressive with
    mem := streamOf bs, streamLen := BitVec.ofNat 32 bs.length
    dec := { Decoder.reset with
      frame := some (mkFrame (grayCfg progressive)), mode := mode, se := 63
      scomps := [⟨0, some dcT, some (if progressive then pacT else acT)⟩], mcuExpected := 1, interval := 1, k := 1 } }

/-- `s` with the command `w` pending. -/
def issue (w : Word) (s : State) : State := { s with busy := true, pending := w }

/-- An 8 × 8 frame of `n` equal components, built: line memory holds `v i` in component i. -/
def builtN (n : Nat) (v : Nat → Byte) : State :=
  let cfg := { State.reset with
    frameCfg := 0x00000800#32 ||| BitVec.ofNat 32 (65536 * n), frameSize := 0x00080008#32
    compCfg := ⟨0x1101#32, 0x1102#32, 0x1103#32, 0x1104#32⟩, outSize := 0x00010001#32 }
  { cfg with
    dec := { Decoder.reset with frame := some (mkFrame cfg) }
    lines := some ((List.range n).map fun i => List.replicate 8 (List.replicate 8 (v i))) }

/-- One field of what `i` leaves on a state. -/
def after {α : Type} (i : Instr) (s : State) (g : State → α) : Option α := (answer (exec i s)).map g

/-! Single steps, with the results of spec/95_test_vectors.md. -/

/-- 2.2.1 and 2.2.2: codes and their symbols. -/
theorem test_codes_of_vector_2_2 :
    dcT.map (fun e => (e.len, e.code)) =
      [(2, 0b00), (3, 0b010), (3, 0b011), (3, 0b100), (3, 0b101), (3, 0b110), (4, 0b1110), (5, 0b11110),
        (6, 0b111110), (7, 0b1111110), (8, 0b11111110), (9, 0b111111110)] ∧
    acT.map (fun e => (e.len, e.code, e.sym)) =
      [(2, 0b00, 0x00), (2, 0b01, 0x01), (3, 0b100, 0x02), (3, 0b101, 0x11), (4, 0b1100, 0xF0),
        (4, 0b1101, 0x21)] := by decide

/-- 2.2.5. -/
theorem test_extend :
    [extend 0 0, extend 0 1, extend 1 1, extend 0 2, extend 1 2, extend 2 2, extend 3 2, extend 2 3, extend 5 3,
      extend 1023 11, extend 1024 11, extend 0 11] = [0, -1, 1, -3, -2, 2, 3, -5, 5, -1024, 1024, -2047] := by
  decide

/-- 45 R263: Z is a permutation of 0 to 63, and its first entries are the ones 2.6.3 uses. -/
theorem test_zigzag :
    zigzagTable.length = 64 ∧ zigzagTable.Nodup ∧ (zigzagTable.all fun n => n < 64) = true ∧
    (zigzagTable.take 6 = [0, 1, 8, 16, 9, 2]) ∧ zigzag 63 = some 63 ∧ zigzag 64 = none := by decide

/-- 2.9.2 to 2.9.5. -/
theorem test_nop_and_illegal_commands :
    (answer (step (issue 0#32 State.reset))).map statusWord = some 0x00000002#32 ∧
    (answer (step (issue 8#32 State.reset))).map (fun t => (statusWord t, t.errPos)) =
      some (0x00000106#32, 0#32) ∧
    (answer (step (issue 0x100#32 { State.reset with streamPos := 0x55#32 }))).map
      (fun t => (statusWord t, t.errPos)) = some (0x00000106#32, 0x55#32) ∧
    (answer (step (issue 2#32 { State.reset with errCode := .illegalCmd }))).map statusWord =
      some 0x00000116#32 := by decide

/-- 2.9.8: CLEAR drops the frame and the tables and keeps STREAM_POS. -/
theorem test_clear :
    after .clear { gray false none [] with streamPos := 0x9D#32 } (fun t =>
      (statusWord t, tableValidWord t, readReg .frameDim t, readReg .scanInfo t, t.streamPos)) =
      some (0x00000002#32, 0#32, 0#32, 7#32, 0x9D#32) := by decide

/-- 2.9.10 and 2.9.12: SOFT_RESET discards the write's IRQ_EN; the line is IRQ_EN and DONE. -/
theorem test_ctrl :
    (busWrite (slotOf 0x004) 3#32 (gray false none [])).irqEn = false ∧
    (busWrite (slotOf 0x004) 3#32 (gray false none [])).frameValid = false ∧
    (answer (step (issue 0#32 (busWrite (slotOf 0x004) 1#32 State.reset)))).map State.irq = some true := by decide

set_option maxRecDepth 4000 in
/-- 2.6.3: entry k goes to Z[k]. -/
theorem test_load_dqt :
    after .loadDqt (onStream (0x00#8 :: (List.range 64).map fun k => BitVec.ofNat 8 (k + 1)))
      (fun t => ((storeGet 0 t.qt).map fun q => [q[0], q[1], q[8], q[16], q[9], q[2], q[63]], t.streamPos)) =
      some (some [1, 2, 3, 4, 5, 6, 64], 65#32) := by decide

set_option maxRecDepth 4000 in
/-- 2.6.2: a 16-bit table. -/
theorem test_dqt_group_16 :
    after (.dqtGroup16 0#4) (onStream (0x10#8 :: 0x01#8 :: 0x00#8 :: (List.replicate 63 [0x00#8, 0x02#8]).flatten))
      (fun t => ((storeGet 0 t.qt).map fun q => [q[0], q[1], q[63]], t.streamPos)) =
      some (some [256, 2, 2], 0x81#32) := by decide

/-- 2.6.5 to 2.6.7. -/
theorem test_load_dqt_errors :
    after .loadDqt (onStream [0x20#8]) (fun t => (statusWord t, t.errPos)) = some (0x00000406#32, 0#32) ∧
    after .loadDqt { onStream (List.replicate 65 0x01#8) with streamLen := 40#32 }
      (fun t => (statusWord t, t.errPos)) = some (0x00000306#32, 40#32) ∧
    after (.dqtGroup8 1#4) { onStream (List.replicate 65 0x01#8) with qt := [(1, Vector.replicate 64 1#16)] }
      (fun t => (statusWord t, t.errPos)) = some (0x00000506#32, 0#32) := by decide

/-- 2.2.4a, with the group at address 0. -/
theorem test_load_dht :
    after .loadDht (onStream ([0x00#8] ++ [0, 1, 5, 1, 1, 1, 1, 1, 1, 0, 0, 0, 0, 0, 0, 0] ++ dcVals))
      (fun t => (t.streamPos, tableValidWord t, decide (storeGet 0 t.dcTab = some dcT))) =
      some (29#32, 0x00010000#32, true) := by decide

/-- 00 R8: HT_MAX_SYMBOLS = 11 refuses the twelve symbols of 2.2.4a, at its first value byte. -/
theorem test_load_dht_limit :
    (let s := onStream ([0x00#8] ++ [0, 1, 5, 1, 1, 1, 1, 1, 1, 0, 0, 0, 0, 0, 0, 0] ++ dcVals);
      after .loadDht { s with params := { s.params with htMaxSymbols := 11 } } (fun t => (statusWord t, t.errPos))) =
      some (0x00000706#32, 0x11#32) := by decide

/-- 2.2.4c, e, f and i. -/
theorem test_load_dht_errors :
    after .loadDht (onStream [0x25#8]) (fun t => (statusWord t, t.errPos)) = some (0x00000606#32, 0#32) ∧
    after .loadDht (onStream ([0x00#8, 0x03#8] ++ List.replicate 15 0#8 ++ [1, 2, 3]))
      (fun t => (statusWord t, t.errPos)) = some (0x00000706#32, 0x14#32) ∧
    after .loadDht (onStream ([0x00#8, 0xFF#8, 0x02#8] ++ List.replicate 14 0#8))
      (fun t => (statusWord t, t.errPos)) = some (0x00000706#32, 0x11#32) := by decide

/-- 2.5.5: 33 × 17, 4:2:0. -/
theorem test_set_frame :
    after .setFrame { State.reset with
        frameCfg := 0x00030800#32, frameSize := 0x00110021#32, compCfg := ⟨0x2201#32, 0x1102#32, 0x1103#32, 0#32⟩ }
      (fun t => (readReg .frameDim t, readReg .frameGeom t, readReg .frameMax t, readReg (.compBlk 0) t,
        readReg (.compBlkM 0) t, readReg (.compBlk 2) t)) =
      some (0x00110021#32, 0x00020003#32, 0x00030322#32, 0x00030005#32, 0x00040006#32, 0x00020003#32) := by decide

/-- 2.9.15, and 43 R191: SET_FRAME's refusals. -/
theorem test_set_frame_errors :
    after .setFrame (gray false none []) statusWord = some 0x00000226#32 ∧
    after .setFrame { grayCfg false with compCfg := ⟨0x1501#32, 0#32, 0#32, 0#32⟩ } statusWord =
      some 0x00000806#32 := by decide

/-- 2.3.1 and 2.3.2, with the entropy bytes at address 0. -/
theorem test_decode_scan :
    after .decodeScan (gray false none [0x94, 0xFF, 0xD9]) (fun t =>
      (t.lastMarker, t.streamPos, t.dec.mcuCount, blkGet 0 t.dec)) = some (0xFFD9#16, 3#32, 1, 5#32) ∧
    after .decodeScan (gray false none [0x95, 0xD6, 0xCF, 0xFF, 0xD9]) (fun t =>
      ([blkGet 0 t.dec, blkGet 1 t.dec, blkGet 3 t.dec, blkGet 16 t.dec], t.streamPos)) =
      some ([5#32, 1#32, 1#32, -1#32], 5#32) := by decide

/-- 2.4.1, 2.4.12 and 2.4.14: an abort, a missing marker byte and a missing marker. -/
theorem test_decode_scan_errors :
    after .decodeScan (gray false none [0xFF, 0x00, 0xFF, 0x00]) (fun t => (statusWord t, t.lastMarker)) =
      some (0x0002002A#32, 0xFFD9#16) ∧
    after .decodeScan (gray false none [0x94]) (fun t => (statusWord t, t.errPos)) =
      some (0x00000326#32, 1#32) ∧
    after .decodeScan (gray false none [0x94, 0xFF, 0x00]) (fun t => (statusWord t, t.errPos)) =
      some (0x00000B26#32, 1#32) := by decide

/-- 2.3.4 to 2.3.8: DC_FIRST with al = 1, then DC_SUCC. -/
theorem test_dc_modes :
    after .dcFirst { gray true none [0x97] with dec := { (gray true none [0x97]).dec with al := 1 } }
      (fun t => (blkGet 0 t.dec, t.dec.mode)) = some (10#32, some .dcFirst) ∧
    after .dcSucc { gray true none [0xFF, 0x00] with dec := blkSet 0 10#32 (gray true none []).dec }
      (fun t => blkGet 0 t.dec) = some 11#32 := by decide

/-- 2.3.9: 01 1, 101 0, 00. -/
theorem test_ac_first :
    after .acFirst { gray true none [0x74, 0x7F] with dec := { (gray true none []).dec with ss := 1, al := 1 } }
      (fun t => (blkGet 1 t.dec, blkGet 16 t.dec, t.dec.eobrun)) = some (2#32, -2#32, 0) := by decide

/-- 2.3.10: 101 1, 1, 1, 00 on {0: 5, 1: 2, 16: −2}. -/
theorem test_ac_succ :
    after .acSucc { gray true none [0xBC] with
        dec := blkSet 0 5#32 (blkSet 1 2#32 (blkSet 16 (-2#32) { (gray true none []).dec with ss := 1, ah := 1 })) }
      (fun t => ([blkGet 0 t.dec, blkGet 1 t.dec, blkGet 9 t.dec, blkGet 16 t.dec], t.dec.acState)) =
      some ([5#32, 3#32, 1#32, -1#32], .initial) := by decide

/-- 2.3.10 under AC_REFINE_MODE magnitude: a correction bit takes −2 to −3. -/
theorem test_correction_bit :
    (let d := blkSet 16 (-2#32) { (gray true none []).dec with k := 3 }
    (after (.acSuccCorrectionBit true) { gray true none [] with dec := d } (fun t => blkGet 16 t.dec) = some (-1#32)) ∧
    (after (.acSuccCorrectionBit true)
      { gray true none [] with dec := d, params := { Config.params with refineMode := .magnitude } }
      (fun t => blkGet 16 t.dec) = some (-3#32))) := by decide

/-- 2.3.5 (010 0 after the symbol is category 1), and 2.4.3's category 17. -/
theorem test_dc_symbols :
    after (.dcDiff 1#4) (gray false (some .baseline) [0x4F]) (fun t => (blkGet 0 t.dec, curPred t.dec)) =
      some (-1#32, -1#32) ∧
    after (.dcReserved16 17#8) (gray false (some .baseline) []) (fun t => (statusWord t, t.lastMarker)) =
      some (0x0004002A#32, 0xFFD9#16) := by decide

/-- 2.4.6 (0x10 with bit 1 gives eobrun 2) and 2.4.11 (it gives 3 in AC_SUCC). -/
theorem test_end_of_band_run :
    after (.acEob0 1#4) (gray true (some .acFirst) [0x80]) (fun t => t.dec.eobrun) = some 2 ∧
    after (.acEob0 1#4) (gray true (some .acSucc) [0x80]) (fun t => (t.dec.eobrun, t.dec.acState)) =
      some (3, .eobRun) := by decide

/-- 2.4.2 (0x21 past position 63) and 2.4.8 (size 2 in AC_SUCC). -/
theorem test_ac_aborts :
    after (.acRunSize1 2#4) { gray false (some .baseline) [] with
        dec := { (gray false (some .baseline) []).dec with k := 62 } } statusWord = some 0x0003002A#32 ∧
    after (.acRunSize2 0#4 2#4) (gray true (some .acSucc) []) statusWord = some 0x0005002A#32 := by decide

/-- 2.4.17 and 44 R221: RSTn ends a scan with no MCU left, and goes on with one left. -/
theorem test_restart_marker :
    after (.rst 3#3) { gray false (some .baseline) [] with
        dec := { (gray false (some .baseline) []).dec with mcuCount := 1 } } (fun t => (t.lastMarker, statusWord t)) =
      some (0xFFD3#16, 0x00000022#32) ∧
    after (.rst 3#3) (gray false (some .baseline) []) (fun t => (t.lastMarker, t.done)) = some (0#16, false) := by
  decide

/-- 2.1.2: bytes 94 FF 00 give 1001 0100 1111 1111, and cur advances by 3. -/
theorem test_stuffed_byte_bits :
    (match receive (onStream [0x94, 0xFF, 0x00]).streamByte 16 Decoder.reset with
    | .ok v d => some (v, d.cur)
    | .raise _ _ => none) = some (0x94FF, 3) := by decide

/-- 2.7.1 and 2.7.2. -/
theorem test_idct :
    (eightList (idct8x8 (fun n => if n = 0 then 5#32 else 0#32) (Vector.replicate 64 16#16))).all
      (fun row => eightList row == List.replicate 8 138#8) = true ∧
    eightList (idct8x8 (fun n => if n = 1 then 10#32 else 0#32) (Vector.replicate 64 1#16)).p3 =
      [130, 130, 129, 128, 128, 127, 127, 126] := by decide

/-- 2.7.1 through BUILD_COMPONENTS, and 2.7.6a, 2.7.6b. -/
theorem test_build_components :
    after .buildComponents (gray false none []) (fun t =>
      t.lines.map fun p => p.map fun plane => (plane.length, (plane[7]?).map fun row => row[7]?)) =
      some (some [(8, some (some 128#8))]) ∧
    after .buildComponents { gray false none [] with qt := [] } statusWord = some 0x00000C26#32 ∧
    after .buildComponents (builtN 1 fun _ => 0#8) statusWord = some 0x00000266#32 := by decide

/-- 2.8.1 c, e, j, n. -/
theorem test_pixel_conversions :
    yccToRgb .exact 128#8 0#8 255#8 = (255#8, 81#8, 0#8) ∧ yccToRgb .exact 100#8 50#8 200#8 = (200#8, 75#8, 0#8) ∧
    cmykToRgb 128#8 64#8 32#8 128#8 = (64#8, 32#8, 16#8) ∧
    ycckToRgb .exact 138#8 128#8 128#8 134#8 = (61#8, 61#8, 61#8) := by decide

/-- 2.8.2e on one pixel: four components with no Adobe segment are CMYK. -/
theorem test_color_convert :
    after .colorConvert (builtN 4 fun i => [138, 128, 128, 134].getD i 0) (fun t => t.sink) =
      some [.alloc 1#16 1#16 2#2 4, .rgb 0#16 0#16 72#8 67#8 67#8] ∧
    after .colorConvert (builtN 2 fun i => [138, 134].getD i 0) (fun t => t.sink) =
      some [.alloc 1#16 1#16 0#2 2, .s2 0#16 0#16 138#8 134#8] ∧
    after .colorConvert (gray false none []) statusWord = some 0x00000226#32 := by decide

/-- 2.8.1 f as a row of the dispatch table. -/
theorem test_color_row :
    after .color3cYCbCrOutRgb (builtN 3 fun i => [138, 128, 134].getD i 0) (fun t => t.sink) =
      some [.rgb 0#16 0#16 146#8 133#8 138#8] := by decide

/-! Witnesses: the hypotheses of every statement that has some, met together. -/

/-- A result that answers. -/
theorem next_of_answer {r : Result} (h : (answer r).isSome = true) : ∃ t, r = .next t := by
  cases r with
  | next t => exact ⟨t, rfl⟩
  | fault f => cases h
  | refused f => cases h

theorem witness_EncodedInstructionsDecodeToThemselves :
    (Instr.dhtReserved 15#4 15#4).wf = true ∧ (Instr.illegalCmdOther 16#32).wf = true := by decide

theorem witness_DecodedWordsEncodeBack : decode .dcSymbol 255#32 = .ok (.dcReserved128 255#8) := by decide

/-- A command pending, and a host that leaves the next turn to the core. -/
def polled : State := { issue 5#32 State.reset with agenda := [.coreTurn, .read 2#6] }

theorem witness_StepRunsTheDecodedInstruction :
    (commandNext (issue 1#32 { State.reset with errCode := .sequence }) ∧
      gateDiscards (issue 1#32 { State.reset with errCode := .sequence }) = false) ∧
    (polled.latch = none ∧ polled.agenda = .coreTurn :: [.read 2#6] ∧ polled.busy = true ∧
      gateDiscards polled = false) ∧
    (decode .acSymbol 0xF0#32 = .ok .acZrl) := by
  refine ⟨⟨⟨rfl, rfl, rfl⟩, rfl⟩, ⟨rfl, rfl, rfl, rfl⟩, rfl⟩

/-- A frame latched, tables loaded, a scan pending. -/
def scanning : State := issue 5#32 (gray false none [0x94, 0xFF, 0xD9])

theorem scanning_inv : StateInv scanning := by
  refine ⟨⟨by decide, by unfold reservedZero; decide⟩, ⟨by decide, ?_, trivial⟩,
    ⟨by unfold slotsWf; decide, by unfold slotsWf; decide, by unfold slotsWf; decide,
      by unfold tableWf entryWf codePrefixOf; decide, by unfold tableWf entryWf codePrefixOf; decide⟩,
    by unfold ghostsInv; decide⟩
  intro f hf
  cases hf
  unfold frameWf compWf coefsWf
  decide

theorem scanning_steps : ∃ t, step scanning = .next t := next_of_answer (by decide)

theorem scanning_next : commandNext scanning := ⟨rfl, rfl, rfl⟩

theorem witness_StepsKeepStorageForm : storageInv scanning ∧ ∃ t, step scanning = .next t :=
  ⟨scanning_inv.1, scanning_steps⟩

theorem witness_StepsKeepTheFrameWellFormed : frameInv scanning ∧ ∃ t, step scanning = .next t :=
  ⟨scanning_inv.2.1, scanning_steps⟩

theorem witness_StepsKeepTheTablesPrefixCodes : tablesInv scanning ∧ ∃ t, step scanning = .next t :=
  ⟨scanning_inv.2.2.1, scanning_steps⟩

/-- A state in which every ghost flag is set. -/
def haunted : State :=
  { issue 1#32 State.reset with
    faultSeen := true, abortSeen := true, discardSeen := true, errCode := .sequence, abortCause := .eos
    scanAborted := true, overrun := true }

theorem witness_GhostFlagsRememberFaultsAborts :
    (∃ t, step haunted = .next t) ∧ ghostsInv haunted ∧ haunted.faultSeen = true ∧ haunted.abortSeen = true ∧
      haunted.discardSeen = true :=
  ⟨next_of_answer (by decide), by unfold ghostsInv; decide, rfl, rfl, rfl⟩

theorem witness_WellFormedCommandsNeverStop : StateInv scanning ∧ commandNext scanning :=
  ⟨scanning_inv, scanning_next⟩

theorem witness_ResetRegistersReadAsTabled :
    (gray false none [0x94]).busy = false ∧ (2#32).getLsbD 1 = true ∧ (0xFFFFFFFF#32).getLsbD 1 = true := by decide

theorem witness_NopOnlyEndsItsStep :
    commandNext (issue 0#32 State.reset) ∧ (issue 0#32 State.reset).pending = 0#32 := ⟨⟨rfl, rfl, rfl⟩, rfl⟩

theorem witness_ClearEmptiesTheCore :
    (commandNext haunted ∧ haunted.pending = 1#32) ∧
    ∃ t, exec .clear haunted = .next t ∧ haunted.errCode ≠ .none ∧ t.errCode = .none :=
  ⟨⟨⟨rfl, rfl, rfl⟩, rfl⟩, _, rfl, by decide, rfl⟩

theorem witness_IllegalWordsRaiseIllegalCmd :
    (commandNext (issue 8#32 State.reset) ∧ 8#32 ≤ (issue 8#32 State.reset).pending ∧
      (issue 8#32 State.reset).errCode = .none) ∧
    (commandNext (issue 0xFFFFFFFF#32 haunted) ∧ 8#32 ≤ (issue 0xFFFFFFFF#32 haunted).pending ∧
      (issue 0xFFFFFFFF#32 haunted).errCode ≠ .none) :=
  ⟨⟨⟨rfl, rfl, rfl⟩, by decide⟩, ⟨rfl, rfl, rfl⟩, by decide⟩

theorem witness_ErrorStateDiscardsCommands :
    State.reset.busy = false ∧ commandNext (issue 2#32 haunted) ∧ (issue 2#32 haunted).errCode ≠ .none ∧
      (issue 2#32 haunted).pending ≠ 0#32 ∧ (issue 2#32 haunted).pending ≠ 1#32 ∧
      commandNext (issue 0#32 haunted) ∧ (issue 0#32 haunted).pending = 0#32 ∧ haunted.pending = 1#32 :=
  ⟨rfl, ⟨rfl, rfl, rfl⟩, by decide, by decide, by decide, ⟨rfl, rfl, rfl⟩, rfl, rfl⟩

/-- A busy core, and a host about to make `m`. -/
def moving (m : HostMove) : State := { issue 5#32 State.reset with agenda := [m, .coreTurn] }

theorem witness_WritesWhileBusyAreLost :
    ((moving (.write 5#6 1#32)).busy = true ∧ (moving (.write 5#6 1#32)).latch = none ∧
      (moving (.write 5#6 1#32)).agenda = .write 5#6 1#32 :: [.coreTurn]) ∧
    (moving (.read 63#6)).agenda = .read 63#6 :: [.coreTurn] := ⟨⟨rfl, rfl, rfl⟩, rfl⟩

theorem witness_RegistersShowAndStoreTheirFields :
    (15 < 16 ∧ (readAt 0x08C { State.reset with qt := [(15, Vector.replicate 64 1#16)] }).getLsbD 15 = true) ∧
    (3 < 4 ∧ (readAt 0x08C { State.reset with acTab := [(3, [])] }).getLsbD 23 = true) ∧
    State.reset.dec.frame = none ∧ (gray false none []).dec.frame = some (mkFrame (grayCfg false)) ∧
    (∃ c, (mkFrame (grayCfg false)).comps[(0 : Fin 4).val]? = some c) ∧
    (mkFrame (grayCfg false)).comps.length ≤ (1 : Fin 4).val ∧ State.reset.busy = false ∧
    (1#32).getLsbD 1 = false ∧ (3 : Fin 4) ≠ 0 ∧ 39#6 ≤ 39#6 :=
  ⟨by decide, by decide, rfl, rfl, ⟨_, rfl⟩, by decide, rfl, by decide, by decide, by decide⟩

/-- The source colour space with a frame of one component, and with four configured and none latched. -/
theorem witness_RegistersShowAndStoreTheirFields_src_cs :
    (∀ f, (gray false none []).dec.frame = some f → 1 = f.comps.length) ∧
    (∀ f, ({ State.reset with frameCfg := 0x00040000#32 } : State).dec.frame = some f → 4 = f.comps.length) ∧
    (({ State.reset with frameCfg := 0x00040000#32 } : State).frameCfg.extractLsb' 16 3).toNat = 4 :=
  ⟨(by intro f h; cases h; rfl), (by intro f h; cases h), by decide⟩

theorem witness_EveryCommandStepRaisesDone : commandNext scanning ∧ ∃ t, step scanning = .next t :=
  ⟨scanning_next, scanning_steps⟩

theorem witness_InstructionsLeaveHostRegisters :
    ∃ t, exec .decodeScan scanning = .next t ∧ Instr.decodeScan ≠ .clear := by
  obtain ⟨t, h⟩ := next_of_answer (r := exec .decodeScan scanning) (by decide)
  exact ⟨t, h, by decide⟩

theorem witness_InstructionsWriteOnlyTheirStores :
    ∃ t, exec .eoi scanning = .next t ∧ Instr.eoi ≠ .clear ∧ Instr.eoi ≠ .loadDqt ∧ Instr.eoi ≠ .loadDht ∧
      (∀ tq, Instr.eoi ≠ .dqtGroup8 tq) ∧ (∀ tq, Instr.eoi ≠ .dqtGroup16 tq) ∧
      (∀ th, Instr.eoi ≠ .dhtGroupDc th) ∧ (∀ th, Instr.eoi ≠ .dhtGroupAc th) ∧
      Instr.eoi ≠ .buildComponents ∧ Instr.eoi ≠ .setFrame ∧ Instr.eoi ≠ .colorConvert ∧
      (encode .eoi).1 ≠ .colorDispatch :=
  ⟨_, rfl, by decide, by decide, by decide, (by intro _ h; cases h), (by intro _ h; cases h),
    (by intro _ h; cases h), (by intro _ h; cases h), by decide, by decide, by decide, by decide⟩

/-- A write to CTRL without SOFT_RESET, and one to another register. -/
theorem witness_InstructionsWriteOnlyTheirStores_writes :
    ¬ (slotOf 0x004 = slotOf 0x004 ∧ (1#32).getLsbD 1 = true) ∧
    ¬ (slotOf 0x050 = slotOf 0x004 ∧ (2#32).getLsbD 1 = true) := by decide

theorem witness_InstructionsWriteOnlyTheirProgress :
    ∃ t, exec .nop scanning = .next t ∧ Instr.nop ≠ .clear ∧ Instr.nop ≠ .decodeScan ∧ Instr.nop ≠ .setFrame ∧
      (encode .nop).1 = .cmd := ⟨_, rfl, by decide, by decide, by decide, rfl⟩

theorem witness_BytesBeyondStreamLenNeverMatter :
    (∀ a, a < scanning.streamLen.toNat →
      Memory.read (Memory.write scanning.mem 3 0x77#8) a = Memory.read scanning.mem a) ∧
    Memory.write scanning.mem 3 0x77#8 ≠ scanning.mem ∧ ∃ t, exec .decodeScan scanning = .next t :=
  ⟨by decide, by decide, next_of_answer (by decide)⟩

theorem witness_TableCommandsRunTheirGroup :
    (onStream [0x25]).streamByte (onStream [0x25]).streamPos.toNat = some 0x25#8 ∧
    State.reset.streamLen ≤ State.reset.streamPos := by decide

/-- A stream of `n` bytes 1, after a byte `b`. -/
def ones (b : Byte) (n : Nat) : State := onStream (b :: List.replicate n 1#8)

set_option maxRecDepth 4000 in
theorem witness_DqtGroupsFillTheirSlot :
    (storeGet 15 (ones 0x0F 64).qt = none ∧
      (ones 0x0F 64).streamPos.toNat + 65 ≤ (ones 0x0F 64).streamLen.toNat ∧
      (ones 0x0F 64).streamByte (ones 0x0F 64).streamPos.toNat = some (nibbles 0#4 15#4)) ∧
    ((ones 0x10 128).streamPos.toNat + 129 ≤ (ones 0x10 128).streamLen.toNat ∧
      (ones 0x10 128).streamByte (ones 0x10 128).streamPos.toNat = some (nibbles 1#4 0#4)) ∧
    zigzag 0 = some 0 ∧ zigzag 63 = some 63 := by decide

theorem witness_QuantTablesAreNeverReassigned :
    (storeGet 0 scanning.qt).isSome = true ∧ (∃ t, exec .decodeScan scanning = .next t) ∧
    ¬ (slotOf 0x004 = slotOf 0x004 ∧ (1#32).getLsbD 1 = true) ∧ ¬ (slotOf 0x014 = slotOf 0x004 ∧ (2#32).getLsbD 1 = true) :=
  ⟨by decide, next_of_answer (by decide), by decide, by decide⟩

set_option maxRecDepth 4000 in
theorem witness_BadDqtGroupsChangeNothing :
    (storeGet 0 (ones 0 63).qt = none ∧ (ones 0 63).streamPos.toNat < (ones 0 63).streamLen.toNat ∧
      (ones 0 63).streamLen.toNat < (ones 0 63).streamPos.toNat + 65) ∧
    (ones 0x10 127).streamPos.toNat < (ones 0x10 127).streamLen.toNat ∧
    (ones 0x10 127).streamLen.toNat < (ones 0x10 127).streamPos.toNat + 129 := by decide

/-- A DHT group of these counts and values at address 0, in the format's order. -/
def dhtStream (counts vals : List Byte) : State := onStream (0x13#8 :: (counts ++ vals))

/-- Sixteen counts: `n` codes of length 1, `m` codes of length 2. -/
def counts16 (n m : Byte) : List Byte := n :: m :: List.replicate 14 0#8

theorem witness_DhtGroupsReplaceTheirSlot :
    let s := dhtStream (counts16 1 2) [7, 8, 9]
    let counts := (List.range 16).map (fun i => (Memory.read s.mem (s.streamPos.toNat + 1 + i)).toNat)
    let vals := (List.range counts.sum).map (fun j => Memory.read s.mem (s.streamPos.toNat + 17 + j))
    counts.sum ≤ s.params.htMaxSymbols ∧ s.streamPos.toNat + 17 + counts.sum ≤ s.streamLen.toNat ∧
    buildCanonical counts vals = some [⟨1, 0, 7⟩, ⟨2, 2, 8⟩, ⟨2, 3, 9⟩] ∧
    s.streamByte s.streamPos.toNat = some (nibbles 1#4 ((3#2).setWidth 4)) := by decide

/-- The counts and the values a group's bytes hold. -/
def countsOf (s : State) : List Nat :=
  (List.range 16).map (fun i => (Memory.read s.mem (s.streamPos.toNat + 1 + i)).toNat)
def valsOf (s : State) : List Byte :=
  (List.range (countsOf s).sum).map (fun j => Memory.read s.mem (s.streamPos.toNat + 17 + j))

theorem witness_BadDhtGroupsChangeNothing :
    (let s := onStream (List.replicate 16 1#8);
      s.streamPos.toNat < s.streamLen.toNat ∧ s.streamLen.toNat < s.streamPos.toNat + 17) ∧
    (let s := dhtStream (counts16 0xFF 2) [];
      s.streamPos.toNat + 17 ≤ s.streamLen.toNat ∧ s.params.htMaxSymbols < (countsOf s).sum) ∧
    (let s := dhtStream (counts16 1 2) [7, 8];
      (countsOf s).sum ≤ s.params.htMaxSymbols ∧ s.streamPos.toNat + 17 ≤ s.streamLen.toNat ∧
      s.streamLen.toNat < s.streamPos.toNat + 17 + (countsOf s).sum) ∧
    (let s := dhtStream (counts16 1 3) [7, 8, 9, 10];
      (countsOf s).sum ≤ s.params.htMaxSymbols ∧ s.streamPos.toNat + 17 + (countsOf s).sum ≤ s.streamLen.toNat ∧
      buildCanonical (countsOf s) (valsOf s) = none) := by decide

theorem witness_CanonicalCodesArePrefixFree :
    (1 :: 2 :: List.replicate 14 0).length ≤ 16 ∧
    buildCanonical (1 :: 2 :: List.replicate 14 0) [7, 8, 9] = some [⟨1, 0, 7⟩, ⟨2, 2, 8⟩, ⟨2, 3, 9⟩] := by decide

theorem witness_OversubscribedCountsAreRefused :
    ([2, 1].length ≤ 16 ∧ [2, 1].sum ≤ [7#8, 8, 9].length ∧ buildCanonical [2, 1] [7, 8, 9] = none) ∧
    ([2, 0].sum ≤ [7#8, 8].length ∧ buildCanonical [2, 0] [7, 8] ≠ none) := by decide

theorem witness_CanonicalCodeDecodesToItsValue :
    dcCounts.length ≤ 16 ∧ buildCanonical dcCounts dcVals = some dcT ∧ dcT[11]? = some ⟨9, 0b111111110, 11⟩ ∧
    ∃ d', delivers (onStream [0xFF, 0x00, 0x00]).streamByte (codeBits 9 0b111111110) Decoder.reset d' :=
  ⟨by decide, by decide, by decide, _, _, rfl, _, rfl, _, rfl, _, rfl, _, rfl, _, rfl, _, rfl, _, rfl, _, rfl, rfl⟩

theorem witness_FetchedBytesDeliverMsbFirst :
    Decoder.reset.bitsCount = 0 ∧ (onStream []).streamByte Decoder.reset.cur = none ∧
    ((onStream [0xFE]).streamByte Decoder.reset.cur = some 0xFE#8 ∧ 0xFE#8 ≠ 0xFF#8) ∧
    ((onStream [0xFF, 0x00]).streamByte Decoder.reset.cur = some 0xFF#8 ∧
      (onStream [0xFF, 0x00]).streamByte (Decoder.reset.cur + 1) = some 0x00#8) ∧
    ((onStream [0xFF, 0x01]).streamByte (Decoder.reset.cur + 1) = some 0x01#8 ∧ 0x01#8 ≠ 0x00#8) ∧
    (onStream [0xFF]).streamByte Decoder.reset.cur = some 0xFF#8 ∧
    (onStream [0xFF]).streamByte (Decoder.reset.cur + 1) = none := by decide

theorem witness_ReceiveReadsMsbFirst :
    ∃ d', delivers (onStream [0xA0]).streamByte [true, false, true] Decoder.reset d' :=
  ⟨_, _, rfl, _, rfl, _, rfl, rfl⟩

theorem witness_ExtendIsSignedAndNeverZero :
    (0 ≤ 15 ∧ 0 < 2 ^ 0) ∧ (15 ≤ 15 ∧ 2 ^ 15 - 1 < 2 ^ 15 ∧ 2 ^ (15 - 1) ≤ 2 ^ 15 - 1) ∧
    (1 ≤ 15 ∧ 0 < 2 ^ (1 - 1)) := by decide

/-- The frame of `gray` is well formed wherever it is latched with an aligned reader and no lines. -/
theorem gray_frame_inv {s : State} (p : Bool) (hf : s.dec.frame = some (mkFrame (grayCfg p)))
    (hb : s.dec.bitsCount = 0) (hl : s.lines = none) : frameInv s := by
  refine ⟨by omega, ?_, ?_⟩
  · intro f hf'
    rw [hf] at hf'
    cases hf'
    unfold frameWf compWf coefsWf
    cases p <;> decide
  · rw [hl]; trivial

/-- `gray` with its decoder changed by `g`. -/
def grayAt (progressive : Bool) (mode : ScanMode) (bs : List Byte) (g : Decoder → Decoder) : State :=
  { gray progressive (some mode) bs with dec := g (gray progressive (some mode) bs).dec }

/-- The state of most witnesses: inside a scan, at the frame's one block. -/
abbrev inScan (s : State) (mode : ScanMode) : Prop :=
  scanOpen s ∧ blockHere s.dec = true ∧ s.dec.mode = some mode

theorem witness_DcSymbolsUpdateThePredictor :
    (let s := gray false (some .baseline) [0xAA, 0xAA];
      frameInv s ∧ inScan s .baseline ∧ ∃ bs d', bs.length = (15#4).toNat ∧ delivers s.streamByte bs s.dec d') ∧
    (let s := gray true (some .dcFirst) [];
      frameInv s ∧ inScan s .dcFirst ∧ ∃ bs d', bs.length = (0#4).toNat ∧ delivers s.streamByte bs s.dec d') := by
  refine ⟨⟨gray_frame_inv false rfl rfl rfl, ⟨⟨rfl, rfl⟩, by decide, rfl⟩,
    [true, false, true, false, true, false, true, false, true, false, true, false, true, false, true], _, rfl,
    _, rfl, _, rfl, _, rfl, _, rfl, _, rfl, _, rfl, _, rfl, _, rfl, _, rfl, _, rfl, _, rfl, _, rfl, _, rfl, _, rfl,
    _, rfl, rfl⟩, gray_frame_inv true rfl rfl rfl, ⟨⟨rfl, rfl⟩, by decide, rfl⟩, [], _, rfl, rfl⟩

theorem witness_AcRunsWithoutAValue :
    inScan (gray false (some .baseline) []) .baseline ∧ inScan (gray true (some .acFirst) []) .acFirst ∧
    inScan (gray true (some .acSucc) [0xFE]) .acSucc ∧
    (Instr.acEob0 0#4 = .acEob0 0#4 ∧ ∃ d', delivers (gray true (some .acFirst) []).streamByte []
      (gray true (some .acFirst) []).dec d') ∧
    ∃ d', delivers (gray true (some .acSucc) [0xFE]).streamByte [true, true, true, true, true, true, true, false]
      (gray true (some .acSucc) [0xFE]).dec d' ∧ [true, true, true, true, true, true, true, false].length = (8#4).toNat :=
  ⟨⟨⟨rfl, rfl⟩, by decide, rfl⟩, ⟨⟨rfl, rfl⟩, by decide, rfl⟩, ⟨⟨rfl, rfl⟩, by decide, rfl⟩, ⟨rfl, _, rfl⟩, _,
    ⟨_, rfl, _, rfl, _, rfl, _, rfl, _, rfl, _, rfl, _, rfl, _, rfl, rfl⟩, rfl⟩

theorem witness_AcRunSizePlacesItsValue :
    (let s := grayAt false .baseline [0x80] (fun d => { d with k := 63 });
      frameInv s ∧ inScan s .baseline ∧ s.dec.k + (0#4).toNat ≤ 63 ∧ zigzag (s.dec.k + (0#4).toNat) = some 63 ∧
      (∃ d', delivers s.streamByte [true] s.dec d') ∧ 63 < s.dec.k + (1#4).toNat) ∧
    (let s := grayAt true .acFirst [0x80] (fun d => { d with se := 5, k := 5 });
      frameInv s ∧ inScan s .acFirst ∧ s.dec.k + (0#4).toNat ≤ s.dec.se ∧
      zigzag (s.dec.k + (0#4).toNat) = some 2 ∧ (∃ d', delivers s.streamByte [true, false] s.dec d') ∧
      s.dec.se < s.dec.k + (15#4).toNat) :=
  ⟨⟨gray_frame_inv false rfl rfl rfl, ⟨⟨rfl, rfl⟩, by decide, rfl⟩, by decide, by decide, ⟨_, _, rfl, rfl⟩, by decide⟩,
    gray_frame_inv true rfl rfl rfl, ⟨⟨rfl, rfl⟩, by decide, rfl⟩, by decide, by decide, ⟨_, _, rfl, _, rfl, rfl⟩,
    by decide⟩

theorem witness_AcRunSizeRefinementPends :
    inScan (gray true (some .acSucc) [0x80]) .acSucc ∧
    (∃ d', delivers (gray true (some .acSucc) [0x80]).streamByte [true] (gray true (some .acSucc) [0x80]).dec d') ∧
    2#4 ≤ 2#4 ∧ Instr.acRunSize2 0#4 2#4 = .acRunSize2 0#4 2#4 :=
  ⟨⟨⟨rfl, rfl⟩, by decide, rfl⟩, ⟨_, _, rfl, rfl⟩, by decide, rfl⟩

theorem witness_DcRefinementOrsOneBit :
    frameInv (gray true (some .dcSucc) [0x80]) ∧ inScan (gray true (some .dcSucc) [0x80]) .dcSucc ∧
    ∃ d', delivers (gray true (some .dcSucc) [0x80]).streamByte [true] (gray true (some .dcSucc) [0x80]).dec d' :=
  ⟨gray_frame_inv true rfl rfl rfl, ⟨⟨rfl, rfl⟩, by decide, rfl⟩, _, _, rfl, rfl⟩

theorem witness_CorrectionBitsRefine :
    (let s := grayAt true .acSucc [] (fun d => { d with k := 63 });
      frameInv s ∧ inScan s .acSucc ∧ zigzag s.dec.k = some 63 ∧ s.params.refineMode = .add) ∧
    ({ Config.params with refineMode := .magnitude } : Params).refineMode = .magnitude ∧ 0 < (1#32).toInt :=
  ⟨⟨gray_frame_inv true rfl rfl rfl, ⟨⟨rfl, rfl⟩, by decide, rfl⟩, by decide, rfl⟩, rfl, by decide⟩

theorem witness_DcFirstBlockWritesDcOnly :
    let s := gray true none [0x97];
    frameInv s ∧ scanOpen s ∧ blockHere s.dec = true ∧ curDc s.dec = some dcT ∧
    ∃ d₁ d', decodeHuffman s.streamByte dcT { s.dec with mode := some .dcFirst } = .ok 3#8 d₁ ∧
      delivers s.streamByte [true, false, true] d₁ d' :=
  ⟨gray_frame_inv true rfl rfl rfl, ⟨rfl, rfl⟩, by decide, rfl, _, _, rfl, _, rfl, _, rfl, _, rfl, rfl⟩

theorem witness_BaselineFlatBlockWritesDcOnly :
    let s := gray false none [0x94];
    frameInv s ∧ scanOpen s ∧ blockHere s.dec = true ∧ curDc s.dec = some dcT ∧ curAc s.dec = some acT ∧
    ∃ d₁ d' d₃, decodeHuffman s.streamByte dcT { s.dec with mode := some .baseline } = .ok 3#8 d₁ ∧
      delivers s.streamByte [true, false, true] d₁ d' ∧ decodeHuffman s.streamByte acT d' = .ok 0#8 d₃ :=
  ⟨gray_frame_inv false rfl rfl rfl, ⟨rfl, rfl⟩, by decide, rfl, rfl, _, _, _, rfl, ⟨_, rfl, _, rfl, _, rfl, rfl⟩, rfl⟩

/-- An AC table of RUN/SIZE F1, ZRL and EOB: codewords 0, 10 and 110. -/
def runT : HuffTable := (buildCanonical [1, 1, 1] [0xF1, 0xF0, 0x00]).getD []

/-- A block of `gray` with that table, at the start of its band. -/
def runBlock (progressive : Bool) (mode : ScanMode) (bs : List Byte) : State :=
  grayAt progressive mode bs fun d => { d with ss := 1, scomps := [⟨0, some dcT, some runT⟩] }

/-- Where the AC loop of that BASELINE block begins, after category 3 and the bits of 5. -/
def afterDc (d' : Decoder) (s : State) : Decoder :=
  { blkSet 0 (curPred s.dec + fieldValue [true, false, true])
      (setCurPred (curPred s.dec + fieldValue [true, false, true]) d') with k := 1 }

/-- The premises of the BASELINE loop after `n` passes, at a decoder that meets `here`. -/
def baselineLoop (bs : List Byte) (n : Nat) (here : State → Decoder → Prop) : Prop :=
  let s := runBlock false .baseline bs
  scanOpen s ∧ blockHere s.dec = true ∧ curDc s.dec = some dcT ∧ curAc s.dec = some runT ∧
  ∃ d₁ d' d₂, decodeHuffman s.streamByte dcT { s.dec with mode := some .baseline } = .ok 3#8 d₁ ∧
    delivers s.streamByte [true, false, true] d₁ d' ∧
    acPasses s.streamByte runT 63 0 n (afterDc d' s) d₂ ∧ here s d₂

/-- Every end of the loop: k past 63, the run past it, EOB, no codeword, a marker. -/
theorem witness_BaselineFlatBlockWritesDcOnly_loop :
    baselineLoop [0x96, 0xA8] 4 (fun _ d => 63 < d.k) ∧
    baselineLoop [0x96, 0x60] 3 (fun s d => d.k ≤ 63 ∧ ∃ d₃, decodeHuffman s.streamByte runT d = .ok 0xF1#8 d₃ ∧
      63 < d.k + (0xF1#8).toNat / 16) ∧
    baselineLoop [0x96, 0x70] 2 (fun s d => d.k ≤ 63 ∧ ∃ d₃, decodeHuffman s.streamByte runT d = .ok 0x00#8 d₃) ∧
    baselineLoop [0x96, 0x7F] 2
      (fun s d => d.k ≤ 63 ∧ ∃ d₃, decodeHuffman s.streamByte runT d = .raise (.abort .badCode) d₃) ∧
    baselineLoop [0x96, 0xFF, 0xD9] 1
      (fun s d => d.k ≤ 63 ∧ ∃ d₃, decodeHuffman s.streamByte runT d = .raise (.marker 0xFFD9#16) d₃) := by
  refine ⟨⟨⟨rfl, rfl⟩, by decide, rfl, rfl, _, _, _, rfl, ⟨_, rfl, _, rfl, _, rfl, rfl⟩,
      ⟨_, ⟨by decide, _, _, rfl, .inl ⟨rfl, rfl⟩⟩, _, ⟨by decide, _, _, rfl, .inl ⟨rfl, rfl⟩⟩,
        _, ⟨by decide, _, _, rfl, .inl ⟨rfl, rfl⟩⟩, _, ⟨by decide, _, _, rfl, .inl ⟨rfl, rfl⟩⟩, rfl⟩, by decide⟩,
    ⟨⟨rfl, rfl⟩, by decide, rfl, rfl, _, _, _, rfl, ⟨_, rfl, _, rfl, _, rfl, rfl⟩,
      ⟨_, ⟨by decide, _, _, rfl, .inl ⟨rfl, rfl⟩⟩,
        _, ⟨by decide, _, _, rfl, .inr ⟨[true], _, _, by decide, rfl, by decide, rfl, ⟨_, rfl, rfl⟩, rfl⟩⟩,
        _, ⟨by decide, _, _, rfl, .inl ⟨rfl, rfl⟩⟩, rfl⟩, by decide, _, rfl, by decide⟩,
    ?_, ?_,
    ⟨⟨rfl, rfl⟩, by decide, rfl, rfl, _, _, _, rfl, ⟨_, rfl, _, rfl, _, rfl, rfl⟩,
      ⟨_, ⟨by decide, _, _, rfl, .inl ⟨rfl, rfl⟩⟩, rfl⟩, by decide, _, rfl⟩⟩ <;>
  exact ⟨⟨rfl, rfl⟩, by decide, rfl, rfl, _, _, _, rfl, ⟨_, rfl, _, rfl, _, rfl, rfl⟩,
      ⟨_, ⟨by decide, _, _, rfl, .inl ⟨rfl, rfl⟩⟩,
        _, ⟨by decide, _, _, rfl, .inr ⟨[true], _, _, by decide, rfl, by decide, rfl, ⟨_, rfl, rfl⟩, rfl⟩⟩, rfl⟩,
      by decide, _, rfl⟩

/-- The premises of the AC_FIRST loop after `n` passes, at a decoder that meets `here`. -/
def acFirstLoop (bs : List Byte) (n : Nat) (here : State → Decoder → Prop) : Prop :=
  let s := runBlock true .acFirst bs
  scanOpen s ∧ blockHere s.dec = true ∧ curAc s.dec = some runT ∧ s.dec.eobrun = 0 ∧ s.dec.se ≤ 63 ∧
  ∃ d₂, acPasses s.streamByte runT s.dec.se s.dec.al n { s.dec with mode := some .acFirst, k := s.dec.ss } d₂ ∧
    here s d₂

theorem witness_BaselineFlatBlockWritesDcOnly_ac_first :
    acFirstLoop [0xAA] 4 (fun s d => s.dec.se < d.k) ∧
    acFirstLoop [0x98] 3 (fun s d => d.k ≤ s.dec.se ∧ ∃ d₃, decodeHuffman s.streamByte runT d = .ok 0xF1#8 d₃ ∧
      s.dec.se < d.k + (0xF1#8).toNat / 16) ∧
    acFirstLoop [0x9C] 2 (fun s d => d.k ≤ s.dec.se ∧ ∃ d₃, decodeHuffman s.streamByte runT d = .ok 0x00#8 d₃ ∧
      ∃ d₄, delivers s.streamByte [] d₃ d₄) ∧
    acFirstLoop [0x9F] 2
      (fun s d => d.k ≤ s.dec.se ∧ ∃ d₃, decodeHuffman s.streamByte runT d = .raise (.abort .badCode) d₃) ∧
    acFirstLoop [0xAB, 0xFF, 0xD9] 3
      (fun s d => d.k ≤ s.dec.se ∧ ∃ d₃, decodeHuffman s.streamByte runT d = .raise (.marker 0xFFD9#16) d₃) := by
  exact ⟨⟨⟨rfl, rfl⟩, by decide, rfl, rfl, by decide, _,
      ⟨_, ⟨by decide, _, _, rfl, .inl ⟨rfl, rfl⟩⟩, _, ⟨by decide, _, _, rfl, .inl ⟨rfl, rfl⟩⟩,
        _, ⟨by decide, _, _, rfl, .inl ⟨rfl, rfl⟩⟩, _, ⟨by decide, _, _, rfl, .inl ⟨rfl, rfl⟩⟩, rfl⟩, by decide⟩,
    ⟨⟨rfl, rfl⟩, by decide, rfl, rfl, by decide, _,
      ⟨_, ⟨by decide, _, _, rfl, .inl ⟨rfl, rfl⟩⟩,
        _, ⟨by decide, _, _, rfl, .inr ⟨[true], _, _, by decide, rfl, by decide, rfl, ⟨_, rfl, rfl⟩, rfl⟩⟩,
        _, ⟨by decide, _, _, rfl, .inl ⟨rfl, rfl⟩⟩, rfl⟩, by decide, _, rfl, by decide⟩,
    ⟨⟨rfl, rfl⟩, by decide, rfl, rfl, by decide, _,
      ⟨_, ⟨by decide, _, _, rfl, .inl ⟨rfl, rfl⟩⟩,
        _, ⟨by decide, _, _, rfl, .inr ⟨[true], _, _, by decide, rfl, by decide, rfl, ⟨_, rfl, rfl⟩, rfl⟩⟩, rfl⟩,
      by decide, _, rfl, _, rfl⟩,
    ⟨⟨rfl, rfl⟩, by decide, rfl, rfl, by decide, _,
      ⟨_, ⟨by decide, _, _, rfl, .inl ⟨rfl, rfl⟩⟩,
        _, ⟨by decide, _, _, rfl, .inr ⟨[true], _, _, by decide, rfl, by decide, rfl, ⟨_, rfl, rfl⟩, rfl⟩⟩, rfl⟩,
      by decide, _, rfl⟩,
    ⟨⟨rfl, rfl⟩, by decide, rfl, rfl, by decide, _,
      ⟨_, ⟨by decide, _, _, rfl, .inl ⟨rfl, rfl⟩⟩, _, ⟨by decide, _, _, rfl, .inl ⟨rfl, rfl⟩⟩,
        _, ⟨by decide, _, _, rfl, .inl ⟨rfl, rfl⟩⟩, rfl⟩, by decide, _, rfl⟩⟩

theorem witness_EndOfBandRunsCountBlocks :
    (let s := grayAt true .acFirst [] (fun d => { d with eobrun := 1 });
      scanOpen s ∧ blockHere s.dec = true ∧ curAc s.dec = some pacT ∧ 0 < s.dec.eobrun) ∧
    (let s := grayAt true .acFirst [0x9F] (fun d => { d with ss := 63 });
      scanOpen s ∧ blockHere s.dec = true ∧ curAc s.dec = some pacT ∧ s.dec.eobrun = 0 ∧ s.dec.ss ≤ s.dec.se ∧
      ∃ d₁ d', decodeHuffman s.streamByte pacT { s.dec with mode := some .acFirst, k := s.dec.ss } = .ok 0x10#8 d₁ ∧
        delivers s.streamByte [true] d₁ d') ∧
    (let s := grayAt true .acSucc [] (fun d => { d with ss := 1, eobrun := 1, acState := .eobRun });
      scanOpen s ∧ blockHere s.dec = true ∧ s.dec.ss ≤ s.dec.se ∧ s.dec.se ≤ 63 ∧ s.dec.acState = .eobRun) ∧
    (let s := grayAt true .acSucc [0x9F] (fun d => { d with ss := 63 });
      scanOpen s ∧ blockHere s.dec = true ∧ s.dec.ss ≤ s.dec.se ∧ s.dec.acState = .initial ∧
      ∃ d₁ d', decodeHuffman s.streamByte pacT { s.dec with mode := some .acSucc, k := s.dec.ss, r := 0 } =
          .ok 0x10#8 d₁ ∧ delivers s.streamByte [true] d₁ d') :=
  ⟨⟨⟨rfl, rfl⟩, by decide, rfl, by decide⟩,
    ⟨⟨rfl, rfl⟩, by decide, rfl, rfl, by decide, _, _, rfl, _, rfl, rfl⟩,
    ⟨⟨rfl, rfl⟩, by decide, by decide, by decide, rfl⟩,
    ⟨rfl, rfl⟩, by decide, by decide, rfl, _, _, rfl, _, rfl, rfl⟩

/-- `gray`'s progressive frame with 2 in the coefficient at position 2. -/
def refinedFrame : Option Frame := (blkSet 8 2#32 (gray true none []).dec).frame

/-- A block of that frame in an AC_SUCC scan of the band 1 to `se`. -/
def refiningBand (se : Nat) (bs : List Byte) (g : Decoder → Decoder) : State :=
  grayAt true .acSucc bs fun d => g { d with frame := refinedFrame, ss := 1, se := se }

theorem refiningBand_inv {se : Nat} {bs : List Byte} {g : Decoder → Decoder}
    (h : (refiningBand se bs g).dec.frame = refinedFrame ∧ (refiningBand se bs g).dec.bitsCount = 0) :
    frameInv (refiningBand se bs g) := by
  refine ⟨by rw [h.2]; omega, ?_, trivial⟩
  intro f hf
  rw [h.1] at hf
  cases hf
  unfold frameWf compWf coefsWf
  decide

/-- In state 4 with the one bit of the one nonzero coefficient, and from state 0 with EOBr first. -/
theorem witness_EndOfBandRunsCountBlocks_refining :
    (let s := refiningBand 3 [0x80] (fun d => { d with eobrun := 1, acState := .eobRun });
      frameInv s ∧ inScan s .acSucc ∧ curAc s.dec = some pacT ∧ s.dec.ss ≤ s.dec.se ∧ s.dec.se ≤ 63 ∧
      s.dec.acState = .eobRun ∧ [true].length = (bandNonzeros s.dec).length ∧
      ∃ d', delivers s.streamByte [true] s.dec d') ∧
    (let s := refiningBand 3 [0x9F] id;
      frameInv s ∧ inScan s .acSucc ∧ s.dec.acState = .initial ∧ [true].length = (bandNonzeros s.dec).length ∧
      ∃ d₁ d', decodeHuffman s.streamByte pacT { s.dec with mode := some .acSucc, k := s.dec.ss, r := 0 } =
          .ok 0x10#8 d₁ ∧ [true].length = (0x10#8).toNat / 16 ∧ delivers s.streamByte ([true] ++ [true]) d₁ d') :=
  ⟨⟨refiningBand_inv ⟨rfl, rfl⟩, ⟨⟨rfl, rfl⟩, by decide, rfl⟩, rfl, by decide, by decide, rfl,
      by decide, _, _, rfl, rfl⟩,
    refiningBand_inv ⟨rfl, rfl⟩, ⟨⟨rfl, rfl⟩, by decide, rfl⟩, rfl, by decide,
    _, _, rfl, rfl, _, rfl, _, rfl, rfl⟩

/-- RUN/SIZE 11 with two zeros and the last of them last, and with one zero; RUN/SIZE 21 with one zero. -/
theorem witness_EndOfBandRunsCountBlocks_placing :
    (let s := refiningBand 3 [0xB8] id;
      ∃ d₁ d', decodeHuffman s.streamByte pacT { s.dec with mode := some .acSucc, k := s.dec.ss, r := 0 } =
          .ok 0x11#8 d₁ ∧ delivers s.streamByte [true, true] d₁ d' ∧ (bandZeros s.dec).length = (0x11#8).toNat / 16 + 1 ∧
        zigzag s.dec.se = some 16 ∧ blkGet 16 s.dec = 0#32) ∧
    (let s := refiningBand 2 [0xB8] id; (bandZeros s.dec).length ≤ (0x11#8).toNat / 16) := by
  refine ⟨⟨_, _, rfl, ⟨_, rfl, _, rfl, rfl⟩, ?_⟩, ?_⟩ <;> decide

/-- ZRL over a band of sixteen zeros and a nonzero coefficient, its last position a zero, and over two. -/
theorem witness_EndOfBandRunsCountBlocks_zrl :
    (let s := refiningBand 17 [0xDF] id;
      ∃ d₁ d', decodeHuffman s.streamByte pacT { s.dec with mode := some .acSucc, k := s.dec.ss, r := 0 } =
          .ok 0xF0#8 d₁ ∧ delivers s.streamByte [true] d₁ d' ∧ (bandZeros s.dec).length = 16 ∧
        zigzag s.dec.se = some 19 ∧ blkGet 19 s.dec = 0#32) ∧
    (let s := refiningBand 3 [0xDF] id; (bandZeros s.dec).length < 16) := by
  refine ⟨⟨_, _, rfl, ⟨_, rfl, rfl⟩, ?_⟩, ?_⟩ <;> decide

/-- Every coefficient of `gray`'s block is 0. -/
theorem witness_EndOfBandRunsCountBlocks_zero_band (mode : ScanMode) (bs : List Byte) (g : Decoder → Decoder)
    (hg : ∀ d, (g d).frame = d.frame ∧ (g d).scomps = d.scomps ∧ (g d).blkComp = d.blkComp) (n : Nat) :
    blkGet n (grayAt true mode bs g).dec = 0#32 := by
  obtain ⟨h₁, h₂, h₃⟩ := hg (gray true (some mode) bs).dec
  simp only [blkGet, curComp, curScanComp, frameComp, grayAt, h₁, h₂, h₃]
  rfl

theorem witness_MarkersEndTheScan :
    scanOpen (gray false (some .baseline) []) ∧
    (let s := grayAt false .baseline [] (fun d => { d with mcuCount := 1 });
      scanOpen s ∧ s.dec.mcuExpected ≤ s.dec.mcuCount) := ⟨⟨rfl, rfl⟩, ⟨rfl, rfl⟩, by decide⟩

theorem witness_RestartsResetThePredictors :
    let s := gray false (some .baseline) [];
    scanOpen s ∧ s.dec.mcuCount < s.dec.mcuExpected ∧ (∃ c, frameComp s.dec 0 = some c) ∧
    (∃ sc ∈ s.dec.scomps, sc.comp = 0) ∧ ∀ sc ∈ ({ s.dec with scomps := [] } : Decoder).scomps, sc.comp ≠ 0 :=
  ⟨⟨rfl, rfl⟩, by decide, ⟨_, rfl⟩, ⟨_, List.mem_cons_self .., rfl⟩, by intro sc h; cases h⟩

/-- `gray` with a scan configured by SCAN_CFG and SCAN_COMP0, SCAN_COMP1. -/
def scanCfgd (progressive : Bool) (cfg c0 c1 : Word) : State :=
  { gray progressive none [] with scanCfg := cfg, scanComp := ⟨c0, c1, 0#32, 0#32⟩ }

theorem witness_ScanChecksRefuseInOrder :
    ¬ scanOpen State.reset ∧ (∃ f, (scanCfgd false 0#32 0#32 0#32).dec.frame = some f) ∧
    (scanCfgd false 0#32 0#32 0#32).built = false ∧ cfgNs (scanCfgd false 0#32 0#32 0#32) = 0 ∧
    4 < cfgNs (scanCfgd false 5#32 0#32 0#32) ∧
    (1 ≤ cfgNs (scanCfgd false 1#32 2#32 0#32) ∧ cfgNs (scanCfgd false 1#32 2#32 0#32) ≤ 4 ∧
      (0 : Fin 4).val < cfgNs (scanCfgd false 1#32 2#32 0#32) ∧
      ∀ c ∈ (mkFrame (grayCfg false)).comps, c.cid ≠ scanCid (fourGet (scanCfgd false 1#32 2#32 0#32).scanComp 0)) ∧
    (scanCid (fourGet (scanCfgd false 2#32 1#32 1#32).scanComp 0) =
      scanCid (fourGet (scanCfgd false 2#32 1#32 1#32).scanComp 1)) ∧
    3 < scanTd (fourGet (scanCfgd false 1#32 0x401#32 0#32).scanComp 0) ∧
    3 < scanTa (fourGet (scanCfgd false 1#32 0x4001#32 0#32).scanComp 0) ∧
    storeGet (scanTd (fourGet (scanCfgd false 1#32 0x101#32 0#32).scanComp 0)) (gray false none []).dcTab = none ∧
    storeGet (scanTa (fourGet (scanCfgd false 1#32 0x1001#32 0#32).scanComp 0)) (gray false none []).acTab = none ∧
    ((mkFrame (grayCfg true)).progressive = true ∧ cfgSs (scanCfgd true 0x00400101#32 1#32 0#32) ≠ 0 ∧
      63 < cfgSe (scanCfgd true 0x00400101#32 1#32 0#32) ∧
      cfgSe (scanCfgd true 0x00010201#32 1#32 0#32) < cfgSs (scanCfgd true 0x00010201#32 1#32 0#32)) :=
  ⟨(by intro h; cases h.1), ⟨_, rfl⟩, rfl, by decide, by decide, by decide, by decide, by decide, by decide, by decide,
    by decide, by decide⟩

theorem witness_DecodeScanEndsInOneOfThreeWays :
    StateInv scanning ∧ ∃ f, scanning.dec.frame = some f ∧ checkScan scanning f = none :=
  ⟨scanning_inv, _, rfl, by decide⟩

/-- `scanning` with a second component, of identifier 2, that its scan does not name. -/
def scanningOneOfTwo : State :=
  let cfg := { scanning with frameCfg := 0x00020800#32, compCfg := ⟨0x1101#32, 0x1102#32, 0#32, 0#32⟩ }
  { cfg with dec := { cfg.dec with frame := some (mkFrame cfg) } }

theorem scanningOneOfTwo_inv : StateInv scanningOneOfTwo := by
  refine ⟨⟨by decide, by unfold reservedZero; decide⟩, ⟨by decide, ?_, trivial⟩, scanning_inv.2.2.1,
    scanning_inv.2.2.2⟩
  intro f hf
  cases hf
  unfold frameWf compWf coefsWf
  decide

theorem witness_DecodeScanEndsInOneOfThreeWays_unnamed :
    StateInv scanningOneOfTwo ∧ ∃ f c, scanningOneOfTwo.dec.frame = some f ∧ checkScan scanningOneOfTwo f = none ∧
      frameComp scanningOneOfTwo.dec 1 = some c ∧
      ∀ j : Fin 4, j.val < cfgNs scanningOneOfTwo → scanCid (fourGet scanningOneOfTwo.scanComp j) ≠ c.cid :=
  ⟨scanningOneOfTwo_inv, _, _, rfl, by decide, rfl, by decide⟩

/-- A one-block DC_SUCC scan with its bit and its marker (vector 2.3.8's second scan). -/
def refining : State := { gray true none [0xFF, 0x00, 0xFF, 0xD9] with scanCfg := 0x01000001#32 }

theorem refining_inv : StateInv refining := by
  refine ⟨⟨by decide, by unfold reservedZero; decide⟩, gray_frame_inv true rfl rfl rfl,
    ⟨by unfold slotsWf; decide, by unfold slotsWf; decide, by unfold slotsWf; decide,
      by unfold tableWf entryWf codePrefixOf; decide, by unfold tableWf entryWf codePrefixOf; decide⟩,
    by unfold ghostsInv; decide⟩

theorem witness_DecodeScanEndsInOneOfThreeWays_completes :
    StateInv refining ∧ ∃ f sc c d', refining.dec.frame = some f ∧ checkScan refining f = none ∧
      f.progressive = true ∧ refining.scanCfg.extractLsb' 8 8 = 0#8 ∧ refining.scanCfg.extractLsb' 24 4 ≠ 0#4 ∧
      bindComps refining f = [sc] ∧ f.comps[sc.comp]? = some c ∧
      mcusExpected f [sc] = 1 ∧
      delivers refining.streamByte [true] { refining.dec with cur := refining.streamPos.toNat, bitsCount := 0 } d' ∧
      refining.streamByte d'.cur = some 0xFF#8 ∧ refining.streamByte (d'.cur + 1) = some 0xD9#8 ∧
      0xFF00#16 < 0xFF#8 ++ 0xD9#8 :=
  ⟨refining_inv, _, _, _, _, rfl, by decide, rfl, rfl, by decide, rfl, rfl, by decide, ⟨_, rfl, rfl⟩, by decide,
    by decide, by decide⟩

/-- Scans of `gray`'s progressive frame that pass their checks, one for each progressive row of 30 R97. -/
theorem witness_DecodeScanEndsInOneOfThreeWays_modes :
    (mkFrame (grayCfg true)).progressive = true ∧
    checkScan { refining with scanCfg := 0x00000001#32 } (mkFrame (grayCfg true)) = none ∧
    checkScan { refining with scanCfg := 0x10000001#32 } (mkFrame (grayCfg true)) = none ∧
    checkScan { refining with scanCfg := 0x003F0101#32 } (mkFrame (grayCfg true)) = none ∧
    checkScan { refining with scanCfg := 0x103F0101#32 } (mkFrame (grayCfg true)) = none :=
  ⟨rfl, by decide, by decide, by decide, by decide⟩

theorem witness_ScanChecksRefuseInOrder_accepted :
    (1 ≤ cfgNs scanning ∧ cfgNs scanning ≤ 4) ∧
    (∀ j : Fin 4, j.val < cfgNs scanning → ¬ scanCompRefused scanning (mkFrame (grayCfg false)) j) ∧
    scanning.dec.frame = some (mkFrame (grayCfg false)) := by
  refine ⟨by decide, ?_, rfl⟩
  unfold scanCompRefused
  decide

/-- Every kind of host move, before the core's turn and with nothing pending, and a stream write while BUSY is 1. -/
theorem witness_StepRunsTheDecodedInstruction_moves :
    (∀ m rest, ({ State.reset with agenda := m :: rest } : State).latch = none ∧
      ({ State.reset with agenda := m :: rest } : State).busy = false) ∧
    Memory.wf State.reset.mem ∧ State.reset.agenda = [] ∧
    ({ polled with agenda := [.streamWrite 3#32 7#8] } : State).busy = true :=
  ⟨fun _ _ => ⟨rfl, rfl⟩, by decide, rfl, rfl⟩

/-- Two bits into a code whose two codewords are 00 and 010, and at the start of an empty table. -/
theorem witness_CanonicalCodeDecodesToItsValue_undefined :
    (let t : HuffTable := [⟨2, 0, 5⟩, ⟨3, 2, 6⟩];
      tableWf 2 t ∧ (∃ e ∈ t, [false, true].length < e.len ∧ [false, true] <+: codeBits e.len e.code) ∧
      ∃ d₂ d₃, delivers (onStream [0x70]).streamByte [false, true] Decoder.reset d₂ ∧
        readBit (onStream [0x70]).streamByte d₂ = .ok true d₃ ∧
        ∀ e ∈ t, ¬ ([false, true] ++ [true]) <+: codeBits e.len e.code) ∧
    (tableWf 0 [] ∧ ∃ d', readBit (onStream [0x80]).streamByte Decoder.reset = .ok true d') ∧
    (∃ d', readBit (onStream [0xFF, 0xD9]).streamByte Decoder.reset = .raise (.marker 0xFFD9#16) d') := by
  refine ⟨⟨?_, by decide, _, _, ⟨_, rfl, _, rfl, rfl⟩, rfl, by decide⟩,
    ⟨?_, _, rfl⟩, _, rfl⟩ <;> unfold tableWf entryWf codePrefixOf <;> decide

/-- An AC table of RUN/SIZE 11, ZRL and a size of 2: codewords 0, 10 and 110. -/
def succT : HuffTable := (buildCanonical [1, 1, 1] [0x11, 0xF0, 0x02]).getD []

/-- The premises of the AC_SUCC loop after `n` symbols, at a decoder that meets `here`: the band 1 to `se`, with a
nonzero coefficient at position 2. -/
def succLoop (se : Nat) (table : HuffTable) (bs : List Byte) (n : Nat) (here : State → Decoder → Prop) : Prop :=
  let s := refiningBand se bs fun d => { d with scomps := [⟨0, none, some table⟩] }
  scanOpen s ∧ blockHere s.dec = true ∧ curAc s.dec = some table ∧ s.dec.acState = .initial ∧
  ∃ d, succPasses s.params.refineMode s.streamByte table n
      { s.dec with mode := some .acSucc, k := s.dec.ss, r := 0 } d ∧ here s d

/-- RUN/SIZE and then EOB, as in vector 2.3.10; ZRL up to SE; RUN/SIZE and then a RUN/SIZE or a ZRL with too few
zeros left; a size of 2; no codeword; three RUN/SIZEs and then a marker. -/
theorem witness_EndOfBandRunsCountBlocks_symbols :
    succLoop 10 pacT [0xB8] 1 (fun s d => d.k ≤ d.se ∧ d.se ≤ 63 ∧
      ∃ d₁ d₂, decodeHuffman s.streamByte pacT d = .ok 0x00#8 d₁ ∧ delivers s.streamByte [] d₁ d₁ ∧
        succWalk s.params.refineMode s.streamByte d.se d d₁ d₂) ∧
    succLoop 17 pacT [0xD8] 1 (fun _ d => d.se < d.k) ∧
    succLoop 4 pacT [0xBD, 0x80] 1 (fun s d => d.k ≤ d.se ∧ d.se ≤ 63 ∧
      (zerosOf (between d.k d.se) d).length ≤ (0x11#8).toNat / 16 ∧
      ∃ d₁ d₂ d₃, decodeHuffman s.streamByte pacT d = .ok 0x11#8 d₁ ∧ readBit s.streamByte d₁ = .ok true d₂ ∧
        succWalk s.params.refineMode s.streamByte d.se d d₂ d₃) ∧
    succLoop 10 pacT [0xBE, 0x80] 1 (fun s d => d.k ≤ d.se ∧ d.se ≤ 63 ∧
      (zerosOf (between d.k d.se) d).length < 16 ∧
      ∃ d₁ d₂, decodeHuffman s.streamByte pacT d = .ok 0xF0#8 d₁ ∧
        succWalk s.params.refineMode s.streamByte d.se d d₁ d₂) ∧
    succLoop 10 succT [0x78] 1 (fun s d => d.k ≤ d.se ∧ d.se ≤ 63 ∧
      ∃ d₁, decodeHuffman s.streamByte succT d = .ok 0x02#8 d₁) ∧
    succLoop 10 succT [0x7C] 1 (fun s d => d.k ≤ d.se ∧ d.se ≤ 63 ∧
      ∃ d₁, decodeHuffman s.streamByte succT d = .raise (.abort .badCode) d₁) ∧
    succLoop 10 succT [0x6B, 0xFF, 0xD9] 3 (fun s d => d.k ≤ d.se ∧ d.se ≤ 63 ∧
      ∃ d₁, decodeHuffman s.streamByte succT d = .raise (.marker 0xFFD9#16) d₁) := by
  have first : ∀ {m src table d d₁ d₃ d₂ d' last z sign}, decodeHuffman src table d = .ok 0x11#8 d₁ →
      d.k ≤ last → last ≤ d.se → zigzag last = some z → blkGet z d = 0#32 →
      (zerosOf (between d.k last) d).length = 2 → readBit src d₁ = .ok sign d₃ → succWalk m src last d d₃ d₂ →
      d' = { blkSet z ((if sign then 1#32 else -1#32) <<< d.al) d₂ with
        k := last + 1, r := 0, acNext := if sign then 1#32 else -1#32, acState := .initial } →
      succPass m src table d d' :=
    fun h₁ h₂ h₃ h₄ h₅ h₆ h₇ h₈ h₉ =>
      ⟨_, _, _, _, _, h₁, h₂, h₃, h₄, h₅, .inr ⟨_, _, _, by decide, rfl, by rw [h₆]; decide, h₇, h₈, h₉⟩⟩
  refine ⟨?_, ?_, ?_, ?_, ?_, ?_, ?_⟩
  · exact ⟨⟨rfl, rfl⟩, by decide, rfl, rfl, _, ⟨_, first (last := 3) rfl (by decide) (by decide) rfl (by decide)
      (by decide) rfl ⟨[true], _, by decide, ⟨_, rfl, rfl⟩, rfl⟩ rfl, rfl⟩, by decide, by decide, _, _, rfl, rfl,
      [], _, by decide, rfl, rfl⟩
  · exact ⟨⟨rfl, rfl⟩, by decide, rfl, rfl, _, ⟨_, ⟨_, _, _, 17, _, rfl, by decide, by decide, rfl, by decide,
      .inl ⟨rfl, by decide, ⟨[true], _, by decide, ⟨_, rfl, rfl⟩, rfl⟩, rfl⟩⟩, rfl⟩, by decide⟩
  · exact ⟨⟨rfl, rfl⟩, by decide, rfl, rfl, _, ⟨_, first (last := 3) rfl (by decide) (by decide) rfl (by decide)
      (by decide) rfl ⟨[true], _, by decide, ⟨_, rfl, rfl⟩, rfl⟩ rfl, rfl⟩, by decide, by decide, by decide,
      _, _, _, rfl, rfl, [], _, by decide, rfl, rfl⟩
  · exact ⟨⟨rfl, rfl⟩, by decide, rfl, rfl, _, ⟨_, first (last := 3) rfl (by decide) (by decide) rfl (by decide)
      (by decide) rfl ⟨[true], _, by decide, ⟨_, rfl, rfl⟩, rfl⟩ rfl, rfl⟩, by decide, by decide, by decide,
      _, _, rfl, [], _, by decide, rfl, rfl⟩
  · exact ⟨⟨rfl, rfl⟩, by decide, rfl, rfl, _, ⟨_, first (last := 3) rfl (by decide) (by decide) rfl (by decide)
      (by decide) rfl ⟨[true], _, by decide, ⟨_, rfl, rfl⟩, rfl⟩ rfl, rfl⟩, by decide, by decide, _, rfl⟩
  · exact ⟨⟨rfl, rfl⟩, by decide, rfl, rfl, _, ⟨_, first (last := 3) rfl (by decide) (by decide) rfl (by decide)
      (by decide) rfl ⟨[true], _, by decide, ⟨_, rfl, rfl⟩, rfl⟩ rfl, rfl⟩, by decide, by decide, _, rfl⟩
  · exact ⟨⟨rfl, rfl⟩, by decide, rfl, rfl, _,
      ⟨_, first (last := 3) rfl (by decide) (by decide) rfl (by decide) (by decide) rfl
          ⟨[true], _, by decide, ⟨_, rfl, rfl⟩, rfl⟩ rfl,
        _, first (last := 5) rfl (by decide) (by decide) rfl (by decide) (by decide) rfl
          ⟨[], _, by decide, rfl, rfl⟩ rfl,
        _, first (last := 7) rfl (by decide) (by decide) rfl (by decide) (by decide) rfl
          ⟨[], _, by decide, rfl, rfl⟩ rfl, rfl⟩, by decide, by decide, _, rfl⟩

/-- A DC_SUCC scan of two blocks, with an interval of one MCU. -/
def twoIntervals (bs : List Byte) : State :=
  let cfg := { grayCfg true with frameSize := 0x00080010#32, scanCfg := 0x01000001#32, restartInterval := 1#16 }
  { cfg with
    busy := true, mem := streamOf bs, streamLen := BitVec.ofNat 32 bs.length
    dec := { cfg.dec with frame := some (mkFrame cfg) } }

theorem twoIntervals_inv (bs : List Byte) (h : Memory.wf (streamOf bs)) : StateInv (twoIntervals bs) := by
  have hz : reservedZero (twoIntervals []) := by unfold reservedZero; decide
  refine ⟨⟨h, hz⟩, ⟨Nat.zero_le 7, ?_, trivial⟩, refining_inv.2.2.1, refining_inv.2.2.2⟩
  intro f hf
  cases hf
  unfold frameWf compWf coefsWf
  decide

/-- The second interval done, its marker missing or there; and a marker in the place of the second MCU. -/
theorem witness_DecodeScanEndsInOneOfThreeWays_intervals :
    (∀ bs ∈ [[0x80, 0xFF, 0xD0, 0x80], [0x80, 0xFF, 0xD0, 0x80, 0xFF, 0xD9]],
      let s := twoIntervals bs
      let f := mkFrame { grayCfg true with frameSize := 0x00080010#32 }
      StateInv s ∧ s.busy = true ∧ s.dec.frame = some f ∧ checkScan s f = none ∧ scanRow s f .dcSucc .dcSucc ∧
      ∃ d₁ d₂, intervalsDecoded .dcSucc s f 1 (scanStart s f .dcSucc) d₁ ∧ 1 = mcusInInterval d₁ ∧
        mcusDecoded .dcSucc s f 1 (startInterval d₁) d₂) ∧
    (let s := twoIntervals [0x80, 0xFF, 0xD0, 0xFF, 0xD9]
      let f := mkFrame { grayCfg true with frameSize := 0x00080010#32 }
      ∃ d₁ b t, intervalsDecoded .dcSucc s f 1 (scanStart s f .dcSucc) d₁ ∧ 0 < mcusInInterval d₁ ∧
        mcuBlocks f d₁.scomps d₁.mcuCount = [] ++ b :: [] ∧
        exec .dcSucc { s with dec := atBlock b (startInterval d₁) } = .next t ∧ t.busy = false) := by
  have steps : ∀ bs ∈ [[0x80#8, 0xFF, 0xD0, 0x80], [0x80, 0xFF, 0xD0, 0x80, 0xFF, 0xD9]], Memory.wf (streamOf bs) := by
    decide
  refine ⟨?_, ?_⟩
  · intro bs hbs
    refine ⟨twoIntervals_inv bs (steps bs hbs), rfl, rfl, ?_⟩
    simp only [List.mem_cons, List.not_mem_nil, or_false] at hbs
    rcases hbs with rfl | rfl <;>
    exact ⟨by decide, .inr ⟨rfl, .inr (.inl ⟨by decide, by decide, rfl, rfl⟩)⟩, _, _,
      ⟨_, 0xD0#8, ⟨_, ⟨_, rfl, rfl⟩, rfl⟩, by decide, by decide, by decide, by decide, by decide, rfl⟩, by decide,
      ⟨_, ⟨_, rfl, rfl⟩, rfl⟩⟩
  · exact ⟨_, _, _, ⟨_, 0xD0#8, ⟨_, ⟨_, rfl, rfl⟩, rfl⟩, by decide, by decide, by decide, by decide, by decide, rfl⟩,
      by decide, rfl, rfl, rfl⟩

/-- A one-component scan, and a two-component one of the frame of `scanningOneOfTwo`. -/
theorem witness_ScanBlocksLieInTheirComponent_order :
    let f := (scanningOneOfTwo.dec.frame).getD (mkFrame (grayCfg false))
    let scomps : List ScanComp := [⟨0, none, none⟩, ⟨1, none, none⟩]
    (∃ c, f.comps[0]? = some c) ∧ 2 ≤ scomps.length ∧ f.comps.length = scomps.length ∧
    ∀ (j : Nat) (sc : ScanComp), scomps[j]? = some sc → f.comps[sc.comp]? = f.comps[j]? := by
  refine ⟨⟨_, rfl⟩, by decide, by decide, ?_⟩
  intro j sc h
  match j with
  | 0 => cases h; rfl
  | 1 => cases h; rfl

/-- A frame configured by FRAME_CFG, FRAME_SIZE and two COMP_CFG registers. -/
def frameCfgd (cfg size c0 c1 : Word) : State :=
  { State.reset with frameCfg := cfg, frameSize := size, compCfg := ⟨c0, c1, 0#32, 0#32⟩ }

theorem witness_FrameChecksRefuseInOrder :
    (gray false none []).dec.frame.isSome = true ∧ State.reset.dec.frame = none ∧
    cfgNcomp (frameCfgd 0#32 0x00010001#32 0#32 0#32) = 0 ∧ 4 < cfgNcomp (frameCfgd 0x00050000#32 0x00010001#32 0#32 0#32) ∧
    cfgSamplesPerLine (frameCfgd 0x00010000#32 0x00010000#32 0x1101#32 0#32) = 0 ∧
    cfgScanLines (frameCfgd 0x00010000#32 0x00000001#32 0x1101#32 0#32) = 0 ∧
    compH (fourGet (frameCfgd 0x00010000#32 0x00010001#32 0x1001#32 0#32).compCfg 0) = 0 ∧
    4 < compV (fourGet (frameCfgd 0x00010000#32 0x00010001#32 0x5101#32 0#32).compCfg 0) ∧
    compCid (fourGet (frameCfgd 0x00020000#32 0x00010001#32 0x1101#32 0x1101#32).compCfg 0) =
      compCid (fourGet (frameCfgd 0x00020000#32 0x00010001#32 0x1101#32 0x1101#32).compCfg 1) ∧
    (let s := { frameCfgd 0x00010000#32 0x00080010#32 0x1101#32 0#32 with
        params := { Config.params with maxBlocks := 1 } };
      cfgSamplesPerLine s ≠ 0 ∧ cfgScanLines s ≠ 0 ∧ cfgNcomp s = 1 ∧
      compH (fourGet s.compCfg 0) = 1 ∧ compV (fourGet s.compCfg 0) = 1 ∧
      (s.params.maxBlocks : Nat) < ((mkFrame s).comps.map fun c => c.bplm * c.bpcm).sum) := by decide

theorem witness_SetFrameLatchesTheGeometry :
    checkFrame (frameCfgd 0x00020801#32 0x0001FFFF#32 0x4401#32 0xF1102#32) = none := by decide

theorem gray_frame_wf : frameWf (mkFrame (grayCfg false)) := by
  unfold frameWf compWf coefsWf; decide

theorem witness_PaddedCountsCoverTheBlocks :
    ∃ f c, frameWf f ∧ c ∈ f.comps := ⟨_, _, gray_frame_wf, List.mem_cons_self ..⟩

theorem witness_ScanBlocksLieInTheirComponent :
    frameWf (mkFrame (grayCfg false)) ∧
    (∀ sc ∈ [ScanComp.mk 0 none none], sc.comp < (mkFrame (grayCfg false)).comps.length) ∧
    0 < mcusExpected (mkFrame (grayCfg false)) [⟨0, none, none⟩] ∧
    (0, 0, 0) ∈ mcuBlocks (mkFrame (grayCfg false)) [⟨0, none, none⟩] 0 :=
  ⟨gray_frame_wf, by decide, by decide, by decide⟩

theorem witness_FlatBlocksGiveFlatTiles :
    (fun n : Nat => if n = 0 then 5#32 else 0#32) 0 = 5#32 ∧
    (∀ n, n ≠ 0 → (fun n : Nat => if n = 0 then 5#32 else 0#32) n = 0#32) ∧ 7 < 8 :=
  ⟨rfl, fun _ h => if_neg h, by decide⟩

theorem witness_BuildPlacesEveryTile :
    (let s := gray false none [];
      (∃ f, s.dec.frame = some f ∧ (∀ c ∈ f.comps, (storeGet c.tq s.qt).isSome = true) ∧
        ∃ c q, f.comps[0]? = some c ∧ storeGet c.tq s.qt = some q ∧ 0 < c.bpc ∧ 0 < c.bpl) ∧ s.built = false ∧
      s.params.idct = .standard) ∧
    ¬ scanOpen State.reset ∧
    (let s := { gray false none [] with qt := [] };
      ∃ f c, s.dec.frame = some f ∧ s.built = false ∧ c ∈ f.comps ∧ storeGet c.tq s.qt = none) :=
  ⟨⟨⟨_, rfl, by decide, _, _, rfl, rfl, by decide, by decide⟩, rfl, rfl⟩, (by intro h; cases h.1),
    _, _, rfl, rfl, List.mem_cons_self .., by decide⟩

theorem witness_BuiltLinesAreReadOnly :
    (∃ t p, exec .colorConvert (builtN 1 fun _ => 0#8) = .next t ∧ (builtN 1 fun _ => 0#8).lines = some p ∧
      Instr.colorConvert ≠ .clear) ∧
    ¬ (slotOf 0x004 = slotOf 0x004 ∧ (0#32).getLsbD 1 = true) ∧ (builtN 1 fun _ => 0#8).built = true := by
  obtain ⟨t, h⟩ := next_of_answer (r := exec .colorConvert (builtN 1 fun _ => 0#8)) (by decide)
  exact ⟨⟨t, _, h, rfl, by decide⟩, by decide, rfl⟩

/-- The frame and the lines of `builtN 4`. -/
theorem built_wf : ∃ f planes, (builtN 4 fun _ => 9#8).dec.frame = some f ∧
    (builtN 4 fun _ => 9#8).lines = some planes ∧ frameWf f ∧ planesWf f.comps planes := by
  refine ⟨_, _, rfl, rfl, ?_, ?_⟩
  · unfold frameWf compWf coefsWf; decide
  · exact ⟨by unfold planeWf; decide, by unfold planeWf; decide, by unfold planeWf; decide,
      by unfold planeWf; decide, trivial⟩

theorem witness_SamplesLieInTheirLines :
    ∃ f planes c, frameWf f ∧ planesWf f.comps planes ∧ f.comps[3]? = some c ∧ 0 < 1 := by
  obtain ⟨f, planes, hf, -, hw, hp⟩ := built_wf
  cases hf
  exact ⟨_, planes, _, hw, hp, rfl, by decide⟩

theorem witness_ColorConvertEmitsTheImage :
    StateInv (builtN 4 fun _ => 9#8) ∧ ∃ f planes, (builtN 4 fun _ => 9#8).dec.frame = some f ∧
      (builtN 4 fun _ => 9#8).lines = some planes ∧
      colorRejected (builtN 4 fun _ => 9#8) f.comps.length (srcCs (builtN 4 fun _ => 9#8)) = false := by
  obtain ⟨f, planes, hf, hl, hw, hp⟩ := built_wf
  refine ⟨⟨⟨by decide, by unfold reservedZero; decide⟩, ⟨by decide, ?_, ?_⟩,
    ⟨by unfold slotsWf; decide, by unfold slotsWf; decide, by unfold slotsWf; decide,
      (by intro e h; cases h), (by intro e h; cases h)⟩, by unfold ghostsInv; decide⟩, f, planes, hf, hl, ?_⟩
  · intro f' hf'
    rw [hf] at hf'
    cases hf'
    exact hw
  · rw [hf, hl]; exact hp
  · cases hf; decide

/-- A listed combination and one that is not. -/
theorem witness_ColorConvertEmitsTheImage_table :
    (3, 0#2, 1#2, Instr.color3cYCbCrOutRgb, Conversion.yccRgb) ∈ dispatchTable ∧
    ∀ i cv, (3, 2#2, 0#2, i, cv) ∉ dispatchTable := by
  refine ⟨by decide, fun i cv h => ?_⟩
  simp [dispatchTable] at h

theorem witness_ColorChecksRefuse :
    State.reset.frameValid = false ∧ State.reset.built = false ∧
    (∃ f planes, (builtN 3 fun _ => 9#8).dec.frame = some f ∧ (builtN 3 fun _ => 9#8).lines = some planes ∧
      f.comps.length = 3) ∧
    1#2 < outCs { builtN 3 fun _ => 9#8 with outCfg := 2#32 } ∧
    ((0x11#32).getLsbD 0 = true ∧ (0x11#32).extractLsb' 4 2 = 1#2) ∧
    srcCs { builtN 3 fun _ => 9#8 with srcCsCfg := 0x21#32 } ≠ 0#2 ∧
    (srcCs { builtN 4 fun _ => 9#8 with srcCsCfg := 0x01#32 } ≠ 2#2 ∧
      srcCs { builtN 4 fun _ => 9#8 with srcCsCfg := 0x01#32 } ≠ 3#2) :=
  ⟨rfl, rfl, ⟨_, _, rfl, rfl, rfl⟩, by decide⟩

theorem witness_color_rows :
    ∃ f planes, (builtN 4 fun _ => 9#8).dec.frame = some f ∧ (builtN 4 fun _ => 9#8).lines = some planes ∧
      pixelSample (builtN 4 fun _ => 9#8) f planes 0 = some 9#8 ∧
      pixelSample (builtN 4 fun _ => 9#8) f planes 1 = some 9#8 ∧
      pixelSample (builtN 4 fun _ => 9#8) f planes 2 = some 9#8 ∧
      pixelSample (builtN 4 fun _ => 9#8) f planes 3 = some 9#8 :=
  ⟨_, _, rfl, rfl, by decide, by decide, by decide, by decide⟩

theorem witness_CopyingColorRowsEmit :
    ∃ f planes, (builtN 4 fun _ => 9#8).dec.frame = some f ∧ (builtN 4 fun _ => 9#8).lines = some planes ∧
      pixelSample (builtN 4 fun _ => 9#8) f planes 0 = some 9#8 ∧
      pixelSample (builtN 4 fun _ => 9#8) f planes 1 = some 9#8 ∧
      pixelSample (builtN 4 fun _ => 9#8) f planes 2 = some 9#8 := by
  obtain ⟨f, planes, h₁, h₂, h₃, h₄, h₅, -⟩ := witness_color_rows
  exact ⟨f, planes, h₁, h₂, h₃, h₄, h₅⟩

theorem witness_YCbCrRowEmitsClampedRgb :
    (builtN 4 fun _ => 9#8).params.colorArith = .exact ∧ ∃ f planes, (builtN 4 fun _ => 9#8).dec.frame = some f ∧ (builtN 4 fun _ => 9#8).lines = some planes ∧
      pixelSample (builtN 4 fun _ => 9#8) f planes 0 = some 9#8 ∧
      pixelSample (builtN 4 fun _ => 9#8) f planes 1 = some 9#8 ∧
      pixelSample (builtN 4 fun _ => 9#8) f planes 2 = some 9#8 := ⟨rfl, witness_CopyingColorRowsEmit⟩

theorem witness_CmykAndYcckRowsEmitRgb :
    (builtN 4 fun _ => 9#8).params.colorArith = .exact ∧ ∃ f planes, (builtN 4 fun _ => 9#8).dec.frame = some f ∧ (builtN 4 fun _ => 9#8).lines = some planes ∧
      pixelSample (builtN 4 fun _ => 9#8) f planes 0 = some 9#8 ∧
      pixelSample (builtN 4 fun _ => 9#8) f planes 1 = some 9#8 ∧
      pixelSample (builtN 4 fun _ => 9#8) f planes 2 = some 9#8 ∧
      pixelSample (builtN 4 fun _ => 9#8) f planes 3 = some 9#8 := ⟨rfl, witness_color_rows⟩

end Sys2Proof.Tests
end

/-! What one step can do, said once: the host's moves, the core's turn, and the writes of every instruction.
The invariants below are derived from these lemmas; none unfolds `step` or `exec` again. -/

namespace Sys2Proof.Machine

/-! A step. -/

/-- A property of states that each part of a step keeps: taking a move or a latched symbol, reading a register for
the host, each host write, the error gate, and each instruction. -/
structure StepInvariant (p : State → Prop) : Prop where
  taken : ∀ {s : State} (moves : List HostMove) (l : Option Symbol) (values : List Word),
    p s → p { s with agenda := moves, latch := l, readLog := values }
  write : ∀ {s : State} (slot : BitVec 6) (w : Word), p s → p (busWrite slot w s)
  poke : ∀ {s : State} (a : Word) (b : Byte), p s → p { s with mem := Memory.write s.mem a.toNat b }
  discard : ∀ {s : State}, p s → p (discardCommand s)
  exec : ∀ {i : Instr} {s t : State}, exec i s = .next t → p s → p t

variable {p : State → Prop} {s t : State}

theorem coreTurn_keeps (hp : StepInvariant p) (h : coreTurn s = .next t) (hs : p s) : p t := by
  unfold coreTurn coreStep at h
  split at h
  · split at h
    · cases h; exact hp.discard hs
    · exact hp.exec h hs
  · cases h; exact hs

theorem agendaStep_keeps (hp : StepInvariant p) {m : HostMove} (h : agendaStep m s = .next t) (hs : p s) : p t := by
  cases m with
  | read slot => cases h; exact hp.taken s.agenda s.latch _ hs
  | write slot w => cases h; exact hp.write slot w hs
  | streamWrite a b =>
    simp only [agendaStep, streamPoke] at h
    split at h
    · cases h
    · cases h; exact hp.poke a b hs
  | coreTurn => exact coreTurn_keeps hp h hs

/-- A step keeps what each of its parts keeps. -/
theorem step_keeps (hp : StepInvariant p) (h : step s = .next t) (hs : p s) : p t := by
  unfold step turn at h
  split at h
  · unfold latchStep at h
    split at h
    · exact hp.exec h (hp.taken s.agenda none s.readLog hs)
    · cases h
  · split at h
    · rename_i m rest _
      exact agendaStep_keeps hp h (hp.taken rest s.latch s.readLog hs)
    · exact coreTurn_keeps hp h hs

/-! A host write. -/

/-- Equal but for what the host's register writes reach: CTRL, STATUS's flags, the pending command, STREAM_LEN,
STREAM_POS and the configuration registers. -/
def SameButHostWrites (s t : State) : Prop :=
  t = { s with
    irqEn := t.irqEn, busy := t.busy, done := t.done, scanAborted := t.scanAborted, overrun := t.overrun
    pending := t.pending, streamLen := t.streamLen, streamPos := t.streamPos
    frameCfg := t.frameCfg, frameSize := t.frameSize, compCfg := t.compCfg
    scanCfg := t.scanCfg, scanComp := t.scanComp, restartInterval := t.restartInterval
    srcCsCfg := t.srcCsCfg, outCfg := t.outCfg, outSize := t.outSize, discardSeen := t.discardSeen }

/-- A register write that is no SOFT_RESET reaches the host's registers only. -/
theorem writeReg_same {r : Reg} {w : Word} (h : ¬ (r = .ctrl ∧ w.getLsbD 1 = true)) (s : State) :
    SameButHostWrites s (writeReg r w s) := by
  cases r
  case ctrl =>
    have hw : ¬ w.getLsbD 1 = true := fun hw => h ⟨rfl, hw⟩
    simp only [writeReg, writeCtrl, if_neg hw]
    rfl
  all_goals rfl

theorem regOfSlot_eq_ctrl {slot : BitVec 6} : regOfSlot slot = .ctrl ↔ slot = slotOf 0x004 := by
  revert slot; decide

theorem busWrite_idle (hbusy : s.busy = false) (slot : BitVec 6) (w : Word) :
    busWrite slot w s = writeReg (regOfSlot slot) w s := by
  unfold busWrite
  rw [hbusy]
  rfl

/-- A host write resets the core, by SOFT_RESET while BUSY is 0, or reaches the host's registers only. -/
theorem busWrite_cases (slot : BitVec 6) (w : Word) (s : State) :
    (slot = slotOf 0x004 ∧ w.getLsbD 1 = true ∧ busWrite slot w s = softReset s) ∨
    SameButHostWrites s (busWrite slot w s) := by
  unfold busWrite
  split
  · exact .inr rfl
  · by_cases h : regOfSlot slot = .ctrl ∧ w.getLsbD 1 = true
    · obtain ⟨hr, hw⟩ := h
      exact .inl ⟨regOfSlot_eq_ctrl.mp hr, hw, by rw [hr]; exact if_pos hw⟩
    · exact .inr (writeReg_same h s)

end Sys2Proof.Machine

/-! The bit reader holds at most 7 bits (10 R54) through every rule of a scan. This is no `Stable` property, since
`Stable` lets the reader's fields take any value; the rules' only write of them is ReadBit's. -/

namespace Sys2Proof.Machine

/-- A rule that leaves at most 7 bits held, from a reader that holds at most 7. -/
def HoldsBits {α : Type} (rule : Decoder → Res α) : Prop :=
  ∀ d : Decoder, d.bitsCount ≤ 7 → (rule d).All fun d' => d'.bitsCount ≤ 7

theorem HoldsBits.andThen {α β : Type} {x : Decoder → Res α} {f : α → Decoder → Res β} (hx : HoldsBits x)
    (hf : ∀ a, HoldsBits (f a)) : HoldsBits fun d => (x d).andThen f :=
  fun d h => (hx d h).andThen fun a d' h' => hf a d' h'

@[simp] theorem bitsCount_blkSet (n : Nat) (v : Coef) (d : Decoder) : (blkSet n v d).bitsCount = d.bitsCount := by
  rw [blkSet_frame]

@[simp] theorem bitsCount_setCurPred (v : Coef) (d : Decoder) : (setCurPred v d).bitsCount = d.bitsCount := by
  rw [setCurPred_frame]

theorem bitsCount_resetPreds (scomps : List ScanComp) : ∀ d, (resetPreds scomps d).bitsCount = d.bitsCount := by
  induction scomps with
  | nil => exact fun _ => rfl
  | cons sc rest ih => exact fun d => (ih _).trans (by rw [modifyComp_frame])

/-! The reader. -/

theorem readBit_bits (src : Nat → Option Byte) : HoldsBits (readBit src) := readBit_count src

theorem receiveFrom_bits (src : Nat → Option Byte) (n : Nat) : ∀ v, HoldsBits (receiveFrom src n v) := by
  induction n with
  | zero => exact fun _ _ h => h
  | succ n ih => exact fun v => (readBit_bits src).andThen fun b => ih _

theorem receive_bits (src : Nat → Option Byte) (n : Nat) : HoldsBits (receive src n) := receiveFrom_bits src n 0

theorem receiveExtend_bits (src : Nat → Option Byte) (n : Nat) : HoldsBits (receiveExtend src n) :=
  (receive_bits src n).andThen fun _ _ h => h

theorem huffmanFrom_bits (src : Nat → Option Byte) (t : HuffTable) (fuel : Nat) :
    ∀ len code, HoldsBits (huffmanFrom src t fuel len code) := by
  induction fuel with
  | zero => exact fun _ _ _ h => h
  | succ n ih =>
    refine fun len code => (readBit_bits src).andThen fun b d h => ?_
    dsimp only
    split
    · exact h
    · split
      · exact ih _ _ d h
      · exact h

theorem decodeHuffman_bits (src : Nat → Option Byte) (t : HuffTable) : HoldsBits (decodeHuffman src t) :=
  huffmanFrom_bits src t 16 0 0

/-! Symbols and bits. -/

theorem withPosition_bits {k : Nat} {d : Decoder} {f : Nat → Res Unit} (h : d.bitsCount ≤ 7)
    (hf : ∀ n, (f n).All fun d' => d'.bitsCount ≤ 7) : (withPosition k d f).All fun d' => d'.bitsCount ≤ 7 :=
  withPosition_keeps (p := fun d' => d'.bitsCount ≤ 7) h fun n _ => hf n

theorem placeAt_bits (v : Coef) : HoldsBits (placeAt v) :=
  fun d h => withPosition_bits h fun n => by simpa using h

theorem refineHere_bits (m : RefineMode) (b : Bool) : HoldsBits (refineHere m b) :=
  fun d h => withPosition_bits h fun n => by simpa using h

theorem dcCategory_bits (src : Nat → Option Byte) (sh t : Nat) : HoldsBits (dcCategory src sh t) :=
  (receiveExtend_bits src t).andThen fun v d h => by simpa using h

theorem dcSymbol_bits (src : Nat → Option Byte) (sh : Nat) (t : Byte) : HoldsBits (dcSymbol src sh t) := by
  intro d h
  unfold dcSymbol
  split
  · exact h
  · exact dcCategory_bits src sh t.toNat d h

theorem acEob_bits (src : Nat → Option Byte) (a : AcKind) (r : Nat) : HoldsBits (acEob src a r) := by
  cases a with
  | baseline => exact fun _ h => h
  | first => exact fun d h => (receive_bits src r d h).andThen fun _ _ h' => h'
  | succ => exact fun d h => (receive_bits src r { d with r := r } h).andThen fun _ _ h' => h'

theorem acRun16_bits (a : AcKind) : HoldsBits (acRun16 a) := by
  cases a <;> exact fun _ h => h

theorem acPlace_bits (src : Nat → Option Byte) (limit sh r sz : Nat) : HoldsBits (acPlace src limit sh r sz) := by
  intro d h
  unfold acPlace
  dsimp only
  split
  · exact h
  · exact (receiveExtend_bits src sz { d with k := d.k + r } h).andThen fun v d' h' => placeAt_bits _ d' h'

theorem acPend_bits (src : Nat → Option Byte) (r sz : Nat) : HoldsBits (acPend src r sz) := by
  intro d h
  unfold acPend
  split
  · exact h
  · exact (receiveExtend_bits src 1 { d with r := r } h).andThen fun _ _ h' => h'

theorem acRunSize_bits (src : Nat → Option Byte) (a : AcKind) (r sz : Nat) : HoldsBits (acRunSize src a r sz) := by
  intro d h
  cases a with
  | baseline => exact acPlace_bits src _ 0 r sz d h
  | first => exact acPlace_bits src _ d.al r sz d h
  | succ => exact acPend_bits src r sz d h

theorem acSymbol_bits (src : Nat → Option Byte) (a : AcKind) (rs : Byte) : HoldsBits (acSymbol src a rs) := by
  intro d h
  unfold acSymbol
  dsimp only
  split
  · split
    · exact acEob_bits src a _ d h
    · exact acRun16_bits a d h
  · exact acRunSize_bits src a _ _ d h

theorem dcRefineBit_bits (b : Bool) {d : Decoder} (h : d.bitsCount ≤ 7) : (dcRefineBit b d).bitsCount ≤ 7 := by
  simpa [dcRefineBit] using h

/-! The routines. -/

theorem acLoop_bits (src : Nat → Option Byte) (a : AcKind) (ac : HuffTable) (fuel : Nat) :
    HoldsBits (acLoop src a ac fuel) := by
  induction fuel with
  | zero => exact fun _ h => h
  | succ n ih =>
    intro d h
    unfold acLoop
    split
    · exact h
    · exact ((decodeHuffman_bits src ac).andThen fun rs => (acSymbol_bits src a rs).andThen fun _ => ih) d h

theorem acVisit_bits (m : RefineMode) (src : Nat → Option Byte) : HoldsBits (acVisit m src) := by
  refine fun d h => withPosition_bits h fun n => ?_
  split
  · exact ((readBit_bits src).andThen fun b => refineHere_bits m b) d h
  · split
    · exact h
    · exact h
    · exact placeAt_bits _ { d with acState := .initial } h
    · exact h
    · exact h

theorem acSuccSymbol_bits (src : Nat → Option Byte) (ac : HuffTable) : HoldsBits (acSuccSymbol src ac) := by
  intro d h
  unfold acSuccSymbol
  split
  · exact ((decodeHuffman_bits src ac).andThen fun rs => acSymbol_bits src .succ rs) d h
  · exact h

theorem acSuccLoop_bits (m : RefineMode) (src : Nat → Option Byte) (ac : HuffTable) (fuel : Nat) :
    HoldsBits (acSuccLoop m src ac fuel) := by
  induction fuel with
  | zero => exact fun _ h => h
  | succ n ih =>
    intro d h
    unfold acSuccLoop
    split
    · exact h
    · exact ((acSuccSymbol_bits src ac).andThen fun _ => (acVisit_bits m src).andThen fun _ => ih) d h

theorem acSuccEnd_bits : HoldsBits acSuccEnd := by
  intro d h
  unfold acSuccEnd
  split <;> exact h

theorem withTable_bits (t : Decoder → Option HuffTable) {rule : HuffTable → Decoder → Res Unit}
    (hr : ∀ table, HoldsBits (rule table)) : HoldsBits fun d => withTable (t d) d fun table => rule table d :=
  fun d h => withTable_keeps (p := fun d' => d'.bitsCount ≤ 7) h fun table => hr table d h

/-- Every block-decode routine leaves at most 7 bits held. -/
theorem blockRoutine_bits (m : RefineMode) (src : Nat → Option Byte) (mode : ScanMode) :
    HoldsBits (blockRoutine m src mode) := by
  cases mode with
  | baseline =>
    exact withTable_bits curDc fun dc => withTable_bits curAc fun ac =>
      (decodeHuffman_bits src dc).andThen fun t => (dcSymbol_bits src 0 t).andThen fun _ d h =>
        acLoop_bits src .baseline ac 64 { d with k := 1 } h
  | dcFirst =>
    exact withTable_bits curDc fun dc => (decodeHuffman_bits src dc).andThen fun t d h => dcSymbol_bits src d.al t d h
  | dcSucc => exact (readBit_bits src).andThen fun b _ h => dcRefineBit_bits b h
  | acFirst =>
    refine withTable_bits curAc fun ac d h => ?_
    split
    · exact h
    · exact acLoop_bits src .first ac 64 { d with k := d.ss } h
  | acSucc =>
    exact withTable_bits curAc fun ac d h =>
      (acSuccLoop_bits m src ac 64 { d with k := d.ss, r := 0 } h).andThen fun _ d' h' => acSuccEnd_bits d' h'

/-- A scan leaves at most 7 bits held. -/
theorem scanStable_bits (m : RefineMode) (src : Nat → Option Byte) (mode : ScanMode) :
    ScanStable (blockRoutine m src mode) fun d => d.bitsCount ≤ 7 where
  block := fun {d} _ h => blockRoutine_bits m src mode d h
  select _ h := h
  count h := h
  align _ := Nat.zero_le 7
  start := fun {d} h => (bitsCount_resetPreds d.scomps d).trans_le h
  cursor _ h := h

end Sys2Proof.Machine

/-! What an instruction can do to the state: one case for each kind of write. -/

namespace Sys2Proof.Machine

/-! What the rules of a scan keep. -/

/-- The rules that a symbol, a raw bit or a mode selector runs on the block being decoded. -/
inductive RowRule (src : Nat → Option Byte) : (Decoder → Res Unit) → Prop where
  | category (sh t : Nat) : RowRule src (dcCategory src sh t)
  | badCategory : RowRule src dcBadCategory
  | run16 (a : AcKind) : RowRule src (acRun16 a)
  | eob (a : AcKind) (r : Nat) : RowRule src (acEob src a r)
  | runSize (a : AcKind) (r sz : Nat) : RowRule src (acRunSize src a r sz)
  | dcBit (b : Bool) : RowRule src fun d => .ok () (dcRefineBit b d)
  | acBit (m : RefineMode) (b : Bool) : RowRule src (refineHere m b)
  | routine (m : RefineMode) (mode : ScanMode) : RowRule src (blockRoutine m src mode)

theorem RowRule.keeps {src : Nat → Option Byte} {rule : Decoder → Res Unit} (hr : RowRule src rule)
    {p : Decoder → Prop} (hp : Stable p) {d : Decoder} (h : p d) : (rule d).All p := by
  cases hr with
  | category sh t => exact dcCategory_keeps hp src sh t h
  | badCategory => exact h
  | run16 a => exact acRun16_keeps hp a h
  | eob a r => exact acEob_keeps hp src a r h
  | runSize a r sz => exact acRunSize_keeps hp src a r sz h
  | dcBit b => exact dcRefineBit_keeps hp b h
  | acBit m b => exact refineHere_keeps hp m b h
  | routine m mode => exact blockRoutine_keeps hp m src mode h

theorem RowRule.bits {src : Nat → Option Byte} {rule : Decoder → Res Unit} (hr : RowRule src rule) :
    HoldsBits rule := by
  cases hr with
  | category sh t => exact dcCategory_bits src sh t
  | badCategory => exact fun _ h => h
  | run16 a => exact acRun16_bits a
  | eob a r => exact acEob_bits src a r
  | runSize a r sz => exact acRunSize_bits src a r sz
  | dcBit b => exact fun _ h => dcRefineBit_bits b h
  | acBit m b => exact refineHere_bits m b
  | routine m mode => exact blockRoutine_bits m src mode

/-- A property of decoders that a whole scan keeps, and each of its rows run by itself. -/
structure RulesKeep (q : Decoder → Prop) : Prop where
  row : ∀ {src : Nat → Option Byte} {rule : Decoder → Res Unit} {d : Decoder},
    RowRule src rule → blockHere d = true → q d → (rule d).All q
  stuffed : ∀ {d : Decoder} (b : Byte), q d → (deliver b d).All q
  mode : ∀ {d : Decoder} (m : ScanMode), q d → q { d with mode := some m }
  begin : ∀ {s : State} (f : Frame), q s.dec → q (startScan s f).dec
  scan : ∀ (m : RefineMode) (src : Nat → Option Byte) (mode : ScanMode), ScanStable (blockRoutine m src mode) q

theorem RulesKeep.align {q : Decoder → Prop} (hq : RulesKeep q) {d : Decoder} (h : q d) : q (align d) :=
  (hq.scan .add (fun _ => none) .dcSucc).align h

theorem RulesKeep.start {q : Decoder → Prop} (hq : RulesKeep q) {d : Decoder} (h : q d) : q (startInterval d) :=
  (hq.scan .add (fun _ => none) .dcSucc).start h

theorem rulesKeep_bits : RulesKeep fun d => d.bitsCount ≤ 7 where
  row hr _ h := hr.bits _ h
  stuffed _ _ := Nat.le_refl 7
  mode _ h := h
  begin _ _ := Nat.zero_le 7
  scan := scanStable_bits

theorem rulesKeep_coefsInside : RulesKeep Decoder.coefsInside where
  row hr hb h := (hr.keeps stable_coefsInside ⟨hb, h⟩).imp fun _ h' => h'.2
  stuffed _ h := h
  mode _ h := h
  begin _ h := h
  scan := scanStable_coefsInside

/-- The frame record (10 R50) without what a scan changes in it. -/
def Decoder.record (d : Decoder) : Option Frame := d.frame.map Frame.outline

theorem record_of_outline {d d' : Decoder} (h : d'.outline = d.outline) : d'.record = d.record :=
  congrArg Decoder.frame h

theorem rulesKeep_record (o : Option Frame) : RulesKeep fun d => d.record = o where
  row := fun {_ _ d} hr _ hd =>
    (hr.keeps (stable_outline d.outline) rfl).imp fun _ h => (record_of_outline h).trans hd
  stuffed _ h := h
  mode _ h := h
  begin _ h := h
  scan m src mode :=
    { block := fun {d} _ hd => (blockRoutine_keeps (stable_outline d.outline) m src mode rfl).imp
        fun _ h => (record_of_outline h).trans hd
      select := fun _ h => h
      count := fun h => h
      align := fun h => h
      start := fun {d} hd => (record_of_outline (outline_startInterval d)).trans hd
      cursor := fun _ h => h }

/-! What a scan's instructions write. -/

/-- Equal but for what a scan and its end write: the decoder, STREAM_POS, LAST_MARKER, EOBRUN, AC_STATE, the abort's
and the error's record, and BUSY and DONE. -/
def SameButScan (s t : State) : Prop :=
  t = { s with
    dec := t.dec, streamPos := t.streamPos, lastMarker := t.lastMarker
    eobrunReg := t.eobrunReg, acStateReg := t.acStateReg
    scanAborted := t.scanAborted, abortCause := t.abortCause, abortSeen := t.abortSeen
    errCode := t.errCode, errPos := t.errPos, faultSeen := t.faultSeen, busy := t.busy, done := t.done }

theorem SameButScan.trans {s t u : State} (h : SameButScan s t) (h' : SameButScan t u) : SameButScan s u := by
  unfold SameButScan at *
  rw [h', h]

/-- A scan, or a row of one, has run: it wrote what a scan writes, and the decoder keeps what scans keep. -/
def Scanned (s t : State) : Prop :=
  SameButScan s t ∧ ∀ q, RulesKeep q → q s.dec → q t.dec

theorem Scanned.trans {s t u : State} (h : Scanned s t) (h' : Scanned t u) : Scanned s u :=
  ⟨h.1.trans h'.1, fun q hq hs => h'.2 q hq (h.2 q hq hs)⟩

theorem scanned_endScanBy {s t : State} {e : Exit} {d : Decoder} (h : endScanBy s e d = .next t)
    (hd : ∀ q, RulesKeep q → q s.dec → q d) : Scanned s t := by
  rcases endScanBy_next h with ⟨c, -, rfl⟩ | ⟨m, -, rfl⟩ | ⟨c, -, rfl⟩ | ⟨c, pos, -, rfl⟩
  · exact ⟨rfl, fun q hq hs => hq.align (hd q hq hs)⟩
  · exact ⟨rfl, hd⟩
  · exact ⟨rfl, fun _ _ hs => hs⟩
  · exact ⟨rfl, hd⟩

/-- BuildCanonical (42 R162) made the table from 16 counts of at most `maxSymbols` symbols. -/
def CanonicalBuild (maxSymbols : Nat) (table : HuffTable) : Prop :=
  ∃ counts vals, counts.length = 16 ∧ counts.sum ≤ maxSymbols ∧ buildCanonical counts vals = some table

/-- Everything an instruction can do where it answers a next state. -/
inductive Effect (s : State) : Instr → State → Prop where
  | nop : Effect s .nop (finish s)
  | clear : Effect s .clear (finish (clearState s))
  | fatal {i : Instr} {c : ErrCode} {pos : Word} : Effect s i (finish (raiseFatal c pos s))
  | quantTable {i : Instr} {wide : Bool} {tq : BitVec 4} {table : QTable} {pos : Word} :
      (i = .loadDqt ∨ i = if wide then .dqtGroup16 tq else .dqtGroup8 tq) →
      Effect s i (finish { s with qt := storePut tq.toNat table s.qt, streamPos := pos })
  | dcTable {i : Instr} {th : BitVec 2} {table : HuffTable} {pos : Word} :
      (i = .loadDht ∨ i = .dhtGroupDc th) → CanonicalBuild s.params.htMaxSymbols table →
      Effect s i (finish { s with dcTab := storePut th.toNat table s.dcTab, streamPos := pos })
  | acTable {i : Instr} {th : BitVec 2} {table : HuffTable} {pos : Word} :
      (i = .loadDht ∨ i = .dhtGroupAc th) → CanonicalBuild s.params.htMaxSymbols table →
      Effect s i (finish { s with acTab := storePut th.toNat table s.acTab, streamPos := pos })
  | frame : checkFrame s = none →
      Effect s .setFrame (finish { s with dec := { s.dec with frame := some (mkFrame s) } })
  | lines {f : Frame} {planes : List Plane} : s.dec.frame = some f →
      buildPlanes s.params.idct s.qt f.comps = some planes →
      Effect s .buildComponents (finish { s with lines := some planes })
  | image {events : List Event} : Effect s .colorConvert (finish { s with sink := s.sink ++ events })
  | pixel {i : Instr} {e : Event} {x y : Nat} : (encode i).1 = .colorDispatch →
      Effect s i { s with sink := s.sink ++ [e], px := x, py := y }
  | scan {i : Instr} {t : State} : s.built = false → Scanned s t → Effect s i t

variable {i : Instr} {s t : State}

/-- A command that checks before it writes: its error is recorded, or its new state ends the step. -/
theorem endCommand_effect {x : Except CommandError State} (h : endCommand s x = .next t)
    (hx : ∀ u, x = .ok u → Effect s i (finish u)) : Effect s i t := by
  rcases endCommand_cases s x with ⟨u, hu, h'⟩ | ⟨e, _, h'⟩
  · rw [h'] at h; cases h; exact hx u hu
  · rw [h'] at h; cases h; exact .fatal

theorem built_of_checkScan {f : Frame} (h : checkScan s f = none) : s.built = false := by
  unfold checkScan at h
  split at h
  · cases h
  · rename_i hb; simpa using hb

theorem not_built_of_and (h : (s.frameValid && !s.built) = true) : s.built = false := by
  simp only [Bool.and_eq_true, Bool.not_eq_true'] at h
  exact h.2

/-- A rule run by itself is a scan's write where it keeps what scans keep. -/
theorem runRule_effect {rule : Decoder → Res Unit} (h : runRule s rule = .next t)
    (hr : ∀ q, RulesKeep q → q s.dec → (rule s.dec).All q) : Effect s i t := by
  rcases runRule_cases s rule with ⟨-, h'⟩ | ⟨hb, d, hd, h'⟩ | ⟨hb, e, d, hd, h'⟩
  · rw [h'] at h; cases h; exact .fatal
  · rw [h'] at h; cases h
    exact .scan (not_built_of_and hb) ⟨rfl, fun q hq hs => by simpa [hd] using hr q hq hs⟩
  · rw [h'] at h
    exact .scan (not_built_of_and hb) (scanned_endScanBy h fun q hq hs => by simpa [hd] using hr q hq hs)

theorem onBlock_all {src : Nat → Option Byte} {rule : Decoder → Res Unit} (hr : RowRule src rule) {q : Decoder → Prop}
    (hq : RulesKeep q) {d : Decoder} (h : q d) : (onBlock rule d).All q := by
  unfold onBlock
  split
  · rename_i hb; exact hq.row hr hb h
  · exact h

theorem runDc_effect {rule : Nat → Decoder → Res Unit} (hr : ∀ sh, RowRule s.streamByte (rule sh))
    (h : runDc s rule = .next t) : Effect s i t :=
  runRule_effect h fun q hq hs => by
    split
    · exact onBlock_all (hr _) hq hs
    · exact onBlock_all (hr _) hq hs
    all_goals exact hs

theorem runAc_effect {rule : AcKind → Decoder → Res Unit} (hr : ∀ a, RowRule s.streamByte (rule a))
    (h : runAc s rule = .next t) : Effect s i t :=
  runRule_effect h fun q hq hs => by
    split
    · exact onBlock_all (hr _) hq hs
    · exact onBlock_all (hr _) hq hs
    · exact onBlock_all (hr _) hq hs
    all_goals exact hs

theorem runMode_effect {mode : ScanMode} (h : runMode mode s = .next t) : Effect s i t :=
  runRule_effect h fun _ hq hs => onBlock_all (.routine _ mode) hq (hq.mode mode hs)

theorem markerEndsScan_effect {m : Half} (h : markerEndsScan m s = .next t) : Effect s i t := by
  rw [markerEndsScan_eq] at h
  cases h
  split
  · rename_i hb; exact .scan (not_built_of_and hb) ⟨rfl, fun _ _ hs => hs⟩
  · exact .fatal

theorem restartMarker_effect {m : Half} (h : restartMarker m s = .next t) : Effect s i t := by
  rw [restartMarker_eq] at h
  cases h
  split
  · rename_i hb
    refine .scan (not_built_of_and hb) ?_
    split
    · exact ⟨rfl, fun q hq hs => hq.start (hq.align hs)⟩
    · exact ⟨rfl, fun _ _ hs => hs⟩
  · exact .fatal

theorem emitPixel_effect {cv : Conversion} (hi : (encode i).1 = .colorDispatch) (h : emitPixel cv s = .next t) :
    Effect s i t := by
  rcases emitPixel_next h with rfl | ⟨e, rfl⟩
  · exact .fatal
  · exact .pixel hi

theorem scanned_startScan (s : State) (f : Frame) : Scanned s (startScan s f) :=
  ⟨rfl, fun _ hq hs => hq.begin f hs⟩

/-- DECODE_SCAN's loops and its end write what a scan writes. -/
theorem scanned_runScan {mode : ScanMode} (hm : s.dec.mode = some mode) (h : runScan s = .next t) : Scanned s t := by
  have hall : ∀ q, RulesKeep q → q s.dec → (intervals (blockRoutine s.params.refineMode s.streamByte mode)
      s.streamByte s.dec.mcuExpected s.dec).All q :=
    fun q hq hs => intervals_keeps (hq.scan _ _ _) _ _ _ hs
  simp only [runScan, hm, scanOutcome] at h
  split at h
  · rename_i m d hx
    cases h
    exact ⟨rfl, fun q hq hs => by simpa [hx] using hall q hq hs⟩
  · rename_i e d hx
    exact scanned_endScanBy h fun q hq hs => by simpa [hx] using hall q hq hs

theorem execDecodeScan_effect (h : execDecodeScan s = .next t) : Effect s i t := by
  unfold execDecodeScan at h
  split at h
  · cases h; exact .fatal
  · rename_i f hf
    split at h
    · cases h; exact .fatal
    · rename_i hc
      exact .scan (built_of_checkScan hc) ((scanned_startScan s f).trans (scanned_runScan rfl h))

theorem dqtGroup_effect {wide : Bool} {tq : BitVec 4} {u : State} (hu : dqtGroup wide tq s = .ok u)
    (hi : i = .loadDqt ∨ i = if wide then .dqtGroup16 tq else .dqtGroup8 tq) : Effect s i (finish u) := by
  obtain ⟨-, bytes, -, rfl⟩ := dqtGroup_ok hu
  exact .quantTable hi

theorem dhtGroup_effect {ac : Bool} {th : BitVec 2} {u : State} (hu : dhtGroup ac th s = .ok u)
    (hi : i = .loadDht ∨ i = if ac then .dhtGroupAc th else .dhtGroupDc th) : Effect s i (finish u) := by
  obtain ⟨counts, vals, table, pos, hlength, -, hsum, hbuild, rfl⟩ := dhtGroup_ok hu
  cases ac
  · exact .dcTable hi ⟨counts, vals, hlength, hsum, hbuild⟩
  · exact .acTable hi ⟨counts, vals, hlength, hsum, hbuild⟩

theorem setFrame_effect {u : State} (hu : setFrame s = .ok u) : Effect s .setFrame (finish u) := by
  obtain ⟨hcheck, rfl⟩ := setFrame_ok hu
  exact .frame hcheck

theorem buildComponents_effect {u : State} (hu : buildComponents s = .ok u) :
    Effect s .buildComponents (finish u) := by
  obtain ⟨f, planes, hf, -, hplanes, rfl⟩ := buildComponents_ok hu
  exact .lines hf hplanes

theorem execLoadDqt_effect (h : execLoadDqt s = .next t) : Effect s .loadDqt t := by
  rcases execLoadDqt_next h with ⟨c, pos, rfl⟩ | ⟨wide, tq, u, hu, rfl⟩
  · exact .fatal
  · exact dqtGroup_effect hu (.inl rfl)

theorem execLoadDht_effect (h : execLoadDht s = .next t) : Effect s .loadDht t := by
  rcases execLoadDht_next h with ⟨c, pos, rfl⟩ | ⟨ac, th, u, hu, rfl⟩
  · exact .fatal
  · exact dhtGroup_effect hu (.inl rfl)

theorem execColorConvert_effect (h : execColorConvert s = .next t) : Effect s .colorConvert t := by
  rcases execColorConvert_next h with ⟨c, rfl⟩ | ⟨events, rfl⟩
  · exact .fatal
  · exact .image

/-- Where an instruction answers a next state, it did one of the listed things. -/
theorem exec_effect (h : exec i s = .next t) : Effect s i t := by
  cases i with
  | nop => cases h; exact .nop
  | clear => cases h; exact .clear
  | loadDqt => exact execLoadDqt_effect h
  | loadDht => exact execLoadDht_effect h
  | setFrame => exact endCommand_effect h fun _ => setFrame_effect
  | decodeScan => exact execDecodeScan_effect h
  | buildComponents => exact endCommand_effect h fun _ => buildComponents_effect
  | colorConvert => exact execColorConvert_effect h
  | dqtGroup8 tq => exact endCommand_effect h fun _ hu => dqtGroup_effect hu (.inr rfl)
  | dqtGroup16 tq => exact endCommand_effect h fun _ hu => dqtGroup_effect hu (.inr rfl)
  | dhtGroupDc th => exact endCommand_effect h fun _ hu => dhtGroup_effect hu (.inr rfl)
  | dhtGroupAc th => exact endCommand_effect h fun _ hu => dhtGroup_effect hu (.inr rfl)
  | illegalCmdLow | illegalCmdOther | dqtReserved2 | dqtReserved4 | dqtReserved8 | dhtReserved | colorModeOther =>
    cases h; exact .fatal
  | baseline | dcFirst | dcSucc | acFirst | acSucc => exact runMode_effect h
  | dcDiff t => exact runDc_effect (fun sh => .category sh t.toNat) h
  | dcReserved16 | dcReserved32 | dcReserved64 | dcReserved128 => exact runDc_effect (fun _ => .badCategory) h
  | acZrl => exact runAc_effect .run16 h
  | acEob0 r | acEob8 r | acEob12 r => exact runAc_effect (fun a => .eob a r.toNat) h
  | acEob14 => exact runAc_effect (fun a => .eob a 14) h
  | acRunSize1 r => exact runAc_effect (fun a => .runSize a r.toNat 1) h
  | acRunSize2 r sz | acRunSize4 r sz | acRunSize8 r sz => exact runAc_effect (fun a => .runSize a r.toNat sz.toNat) h
  | dcSuccBit b => exact runRule_effect h fun _ hq hs => onBlock_all (src := s.streamByte) (.dcBit b) hq hs
  | acSuccCorrectionBit b => exact runRule_effect h fun _ hq hs => onBlock_all (src := s.streamByte) (.acBit _ b) hq hs
  | soi | eoi | sof0 | sof2 | dht | dqt | sos | dri | app | com => exact markerEndsScan_effect h
  | rst => exact restartMarker_effect h
  | stuffedFF =>
    exact runRule_effect (rule := fun d => (deliver 0xFF#8 d).andThen fun _ d' => .ok () d') h
      fun _ hq hs => hq.stuffed 0xFF#8 hs
  | color1cYCbCrOutYCbCr | color1cYCbCrOutRgb | color1cCmykOutYCbCr | color1cCmykOutRgb | color1cYcckOutYCbCr
  | color1cYcckOutRgb | color2cYCbCrOutYCbCr | color2cYCbCrOutRgb | color2cCmykOutYCbCr | color2cCmykOutRgb
  | color2cYcckOutYCbCr | color2cYcckOutRgb | color3cYCbCrOutYCbCr | color3cYCbCrOutRgb | color4cCmykOutYCbCr
  | color4cCmykOutRgb | color4cYcckOutYCbCr | color4cYcckOutRgb => exact emitPixel_effect rfl h

end Sys2Proof.Machine

/-! Storage (10 R21, 20 R61): stream memory's canonical form and the reserved bits of the configuration registers. -/

namespace Sys2Proof.Machine

open Sys2Proof.Safety

variable {s t : State}

/-! Four registers. -/

theorem fourGet_fourSet {α : Type} (f : Four α) (i j : Fin 4) (a : α) :
    fourGet (fourSet f i a) j = if j = i then a else fourGet f j := by
  match i, j with
  | 0, 0 | 0, 1 | 0, 2 | 0, 3 => rfl
  | 1, 0 | 1, 1 | 1, 2 | 1, 3 => rfl
  | 2, 0 | 2, 1 | 2, 2 | 2, 3 => rfl
  | 3, 0 | 3, 1 | 3, 2 | 3, 3 => rfl

/-! The reserved bits. -/

theorem masked_reserved (w mask : Word) : w &&& mask &&& ~~~mask = 0#32 := by
  simp [BitVec.and_assoc, BitVec.and_not_self]

/-- Four registers with their reserved bits 0, one of them written through its mask. -/
theorem fourSet_reserved {f : Four Word} {mask : Word} (h : ∀ j, fourGet f j &&& ~~~mask = 0#32) (i : Fin 4) (w : Word)
    (j : Fin 4) : fourGet (fourSet f i (w &&& mask)) j &&& ~~~mask = 0#32 := by
  rw [fourGet_fourSet]
  split
  · exact masked_reserved w mask
  · exact h j

theorem reservedZero_reset : reservedZero State.reset := by unfold reservedZero; decide

/-- Every register write keeps the reserved bits 0: each configuration register is written through its mask. -/
theorem reservedZero_writeReg (r : Reg) (w : Word) (h : reservedZero s) : reservedZero (writeReg r w s) := by
  cases r
  case ctrl =>
    simp only [writeReg, writeCtrl]
    split
    · exact reservedZero_reset
    · exact h
  all_goals obtain ⟨hframe, hcomp, hscan, hscanComp, hsrc, hout⟩ := h
  case frameCfg => exact ⟨masked_reserved w _, hcomp, hscan, hscanComp, hsrc, hout⟩
  case compCfg i => exact ⟨hframe, fourSet_reserved hcomp i w, hscan, hscanComp, hsrc, hout⟩
  case scanCfg => exact ⟨hframe, hcomp, masked_reserved w _, hscanComp, hsrc, hout⟩
  case scanComp i => exact ⟨hframe, hcomp, hscan, fourSet_reserved hscanComp i w, hsrc, hout⟩
  case srcCsCfg => exact ⟨hframe, hcomp, hscan, hscanComp, masked_reserved w _, hout⟩
  case outCfg => exact ⟨hframe, hcomp, hscan, hscanComp, hsrc, masked_reserved w _⟩
  all_goals exact ⟨hframe, hcomp, hscan, hscanComp, hsrc, hout⟩

theorem mem_writeReg (r : Reg) (w : Word) (s : State) : (writeReg r w s).mem = s.mem := by
  cases r
  case ctrl => simp only [writeReg, writeCtrl]; split <;> rfl
  all_goals rfl

theorem storageInv_busWrite (slot : BitVec 6) (w : Word) (h : storageInv s) : storageInv (busWrite slot w s) := by
  unfold busWrite
  split
  · exact h
  · exact ⟨(mem_writeReg _ w s).symm ▸ h.1, reservedZero_writeReg _ w h.2⟩

/-- Of the instructions only CLEAR writes any of it, with zeros. -/
theorem storageInv_exec {i : Instr} (h : exec i s = .next t) (hs : storageInv s) : storageInv t := by
  cases exec_effect h with
  | clear => exact ⟨hs.1, reservedZero_reset⟩
  | scan _ hscan => rw [hscan.1]; exact hs
  | _ => exact hs

theorem stepInvariant_storageInv : StepInvariant storageInv where
  taken _ _ _ h := h
  write slot w h := storageInv_busWrite slot w h
  poke a b h := ⟨Memory.wf_write h.1 a.toNat a.isLt b, h.2⟩
  discard h := h
  exec := storageInv_exec

/-- Settles O6: every part of a step keeps stream memory's form and the reserved bits. -/
theorem stepsKeepStorageForm : Obligations.StepsKeepStorageForm :=
  fun _ _ hs h => step_keeps stepInvariant_storageInv h hs

end Sys2Proof.Machine

/-! The tables (10 R52, R53, 42 R162): no codeword of a canonical build begins another, and every step keeps the
stores so. -/

namespace Sys2Proof.Machine

open Sys2Proof.Safety

variable {s t : State}

/-! Canonical codes. -/

/-- Codeword `a` stands before `b` in the order of R162: it is no longer than `b`, and every string of `b`'s length
that begins with `a` is below `b`. -/
def codeBefore (a b : HuffEntry) : Prop := a.len ≤ b.len ∧ (a.code + 1) * 2 ^ (b.len - a.len) ≤ b.code

/-- Of two codewords in that order neither begins the other. -/
theorem not_codePrefixOf_of_codeBefore {a b : HuffEntry} (h : codeBefore a b) :
    ¬ codePrefixOf a b ∧ ¬ codePrefixOf b a := by
  obtain ⟨hlen, hcode⟩ := h
  constructor
  · rintro ⟨-, hab⟩
    have : a.code + 1 ≤ b.code / 2 ^ (b.len - a.len) := (Nat.le_div_iff_mul_le (Nat.two_pow_pos _)).mpr hcode
    rw [Nat.shiftRight_eq_div_pow] at hab
    omega
  · rintro ⟨hlen', hba⟩
    have : a.len - b.len = 0 ∧ b.len - a.len = 0 := by omega
    rw [this.1, Nat.shiftRight_zero] at hba
    rw [this.2] at hcode
    omega

/-- The codes of one length: `n` of them, one after the other from `code` up, each fitting its length. -/
theorem assignCodes_some (len n : Nat) : ∀ {code code' : Nat} {vals vals' : List Byte} {entries : List HuffEntry},
    assignCodes len n code vals = some (entries, code', vals') →
    entries.length = n ∧ code' = code + n ∧
    (∀ e ∈ entries, e.len = len ∧ code ≤ e.code ∧ e.code < code' ∧ e.code < 2 ^ len) ∧
    entries.Pairwise codeBefore := by
  induction n with
  | zero => intro code code' vals vals' entries h; cases h; simp
  | succ n ih =>
    intro code code' vals vals' entries h
    cases vals with
    | nil => cases h
    | cons v vals =>
      simp only [assignCodes] at h
      split at h
      · cases h
      · rename_i hfit
        split at h
        · cases h
        · rename_i more c vs hmore
          obtain ⟨hlength, rfl, hmem, hpair⟩ := ih hmore
          cases h
          refine ⟨by simp [hlength], by omega, ?_, List.pairwise_cons.mpr ⟨?_, hpair⟩⟩
          · intro e he
            rcases List.mem_cons.mp he with rfl | he
            · exact ⟨rfl, Nat.le_refl _, by dsimp only; omega, by dsimp only; omega⟩
            · obtain ⟨hl, hlo, hhi, hlt⟩ := hmem e he
              exact ⟨hl, by omega, by omega, hlt⟩
          · intro e he
            obtain ⟨hl, hlo, -, -⟩ := hmem e he
            simpa [codeBefore, hl] using hlo

/-- The codes of the lengths from `len` up: none below those that begin with the bits of `code`. -/
theorem assignLengths_some {counts : List Nat} : ∀ {len code : Nat} {vals : List Byte} {table : HuffTable},
    assignLengths len counts code vals = some table →
    table.length = counts.sum ∧
    (∀ e ∈ table, len ≤ e.len ∧ e.len < len + counts.length ∧ e.code < 2 ^ e.len ∧ code * 2 ^ (e.len - len) ≤ e.code) ∧
    table.Pairwise codeBefore := by
  induction counts with
  | nil => intro len code vals table h; cases h; simp
  | cons n counts ih =>
    intro len code vals table h
    simp only [assignLengths] at h
    split at h
    · cases h
    · rename_i entries code' vals' hentries
      split at h
      · cases h
      · rename_i more hmore
        cases h
        obtain ⟨hlength, rfl, hmem, hpair⟩ := assignCodes_some len n hentries
        obtain ⟨hlength', hmem', hpair'⟩ := ih hmore
        have hnext : ∀ e ∈ more, (code + n) * 2 ^ (e.len - len) ≤ e.code := by
          intro e he
          obtain ⟨hlo, -, -, hcode⟩ := hmem' e he
          rw [show e.len - len = e.len - (len + 1) + 1 by omega, Nat.pow_succ]
          calc (code + n) * (2 ^ (e.len - (len + 1)) * 2) = 2 * (code + n) * 2 ^ (e.len - (len + 1)) := by ring
            _ ≤ e.code := hcode
        refine ⟨by simp [hlength, hlength'], fun e he => ?_, List.pairwise_append.mpr ⟨hpair, hpair', ?_⟩⟩
        · rcases List.mem_append.mp he with he | he
          · obtain ⟨rfl, hlo, -, hlt⟩ := hmem e he
            exact ⟨Nat.le_refl _, by simp, hlt, by simpa using hlo⟩
          · obtain ⟨hlo, hhi, hlt, -⟩ := hmem' e he
            exact ⟨by omega, by simp only [List.length_cons]; omega, hlt,
              (Nat.mul_le_mul_right _ (by omega)).trans (hnext e he)⟩
        · intro a ha b hb
          obtain ⟨rfl, -, hhi, -⟩ := hmem a ha
          obtain ⟨hlo, -, -, -⟩ := hmem' b hb
          exact ⟨by omega, (Nat.mul_le_mul_right _ hhi).trans (hnext b hb)⟩

/-- BuildCanonical gives a well-formed table: a codeword for each symbol counted, none of which begins another. -/
theorem CanonicalBuild.tableWf {maxSymbols : Nat} {table : HuffTable} (h : CanonicalBuild maxSymbols table) :
    tableWf maxSymbols table := by
  obtain ⟨counts, vals, hlength, hsum, hbuild⟩ := h
  obtain ⟨hcount, hmem, hpair⟩ := assignLengths_some hbuild
  refine ⟨by omega, fun e he => ?_, hpair.imp not_codePrefixOf_of_codeBefore⟩
  obtain ⟨hlo, hhi, hlt, -⟩ := hmem e he
  exact ⟨hlo, by omega, hlt⟩

/-! The stores. -/

theorem slotsWf_nil {α : Type} (n : Nat) : slotsWf n ([] : Store α) := ⟨List.Pairwise.nil, by simp⟩

theorem slotsWf_storePut {α : Type} {n a : Nat} {m : Store α} (h : slotsWf n m) (ha : a < n) (v : α) :
    slotsWf n (storePut a v m) := by
  refine ⟨rising_storePut a v h.1, fun e he => ?_⟩
  rcases mem_storePut he with rfl | he
  · exact ha
  · exact h.2 e he

theorem tablesWf_storePut {maxSymbols a : Nat} {m : Store HuffTable} {table : HuffTable}
    (h : ∀ e ∈ m, tableWf maxSymbols e.2) (ht : tableWf maxSymbols table) :
    ∀ e ∈ storePut a table m, tableWf maxSymbols e.2 := by
  intro e he
  rcases mem_storePut he with rfl | he
  · exact ht
  · exact h e he

/-- Stores that hold no table. -/
theorem tablesInv_of_empty (hqt : s.qt = []) (hdc : s.dcTab = []) (hac : s.acTab = []) : tablesInv s := by
  unfold tablesInv
  rw [hqt, hdc, hac]
  exact ⟨slotsWf_nil 16, slotsWf_nil 4, slotsWf_nil 4, by simp, by simp⟩

theorem tablesInv_busWrite (slot : BitVec 6) (w : Word) (h : tablesInv s) : tablesInv (busWrite slot w s) := by
  rcases busWrite_cases slot w s with ⟨-, -, hr⟩ | hsame
  · rw [hr]; exact tablesInv_of_empty rfl rfl rfl
  · rw [hsame]; exact h

/-- A group fills a slot of its store; CLEAR empties the stores; no other instruction writes them. -/
theorem tablesInv_exec {i : Instr} (h : exec i s = .next t) (hs : tablesInv s) : tablesInv t := by
  obtain ⟨hqt, hdc, hac, hdcs, hacs⟩ := hs
  cases exec_effect h with
  | clear => exact tablesInv_of_empty rfl rfl rfl
  | quantTable => exact ⟨slotsWf_storePut hqt (BitVec.isLt _) _, hdc, hac, hdcs, hacs⟩
  | dcTable _ ht =>
    exact ⟨hqt, slotsWf_storePut hdc (BitVec.isLt _) _, hac, tablesWf_storePut hdcs ht.tableWf, hacs⟩
  | acTable _ ht =>
    exact ⟨hqt, hdc, slotsWf_storePut hac (BitVec.isLt _) _, hdcs, tablesWf_storePut hacs ht.tableWf⟩
  | scan _ hscan => rw [hscan.1]; exact ⟨hqt, hdc, hac, hdcs, hacs⟩
  | _ => exact ⟨hqt, hdc, hac, hdcs, hacs⟩

theorem stepInvariant_tablesInv : StepInvariant tablesInv where
  taken _ _ _ h := h
  write slot w h := tablesInv_busWrite slot w h
  poke _ _ h := h
  discard h := h
  exec := tablesInv_exec

/-- Settles O8: every table a step stores is a canonical build, in a slot of its store. -/
theorem stepsKeepTheTablesPrefixCodes : Obligations.StepsKeepTheTablesPrefixCodes :=
  fun _ _ hs h => step_keeps stepInvariant_tablesInv h hs

end Sys2Proof.Machine

/-! The frame (10 R50, R51, R56; 43 R191 to R195): SET_FRAME latches a well-formed record, a scan changes no more
of it than predictors and coefficients inside the blocks, and BUILD_COMPONENTS makes lines of its geometry. -/

namespace Sys2Proof.Machine

open Sys2Proof.Safety

variable {s t : State}

/-! The record and the coefficients, apart. -/

/-- A frame is well formed when its record is and its coefficient memories are. -/
theorem frameWf_iff_outline (f : Frame) : frameWf f ↔ frameWf f.outline ∧ ∀ c ∈ f.comps, c.coefsInside := by
  have hnil : Store.canonical 0#32 ([] : Store Coef) := ⟨List.Pairwise.nil, by simp⟩
  simp [frameWf, compWf, coefsWf, Comp.coefsInside, Frame.outline, Comp.outline, Function.comp_def, hnil, and_assoc]

/-- The same coefficient memories, as the decoder's components. -/
theorem coefsInside_iff {d : Decoder} {f : Frame} (h : d.frame = some f) :
    d.coefsInside ↔ ∀ c ∈ f.comps, c.coefsInside := by
  simp only [Decoder.coefsInside, frameComp, h, List.mem_iff_getElem?]
  exact ⟨fun hd c ⟨i, hi⟩ => hd i c hi, fun hf i c hi => hf c ⟨i, hi⟩⟩

/-- A decoder's frame, if it has one, is well formed. -/
def Decoder.frameOk (d : Decoder) : Prop := ∀ f, d.frame = some f → frameWf f

theorem Decoder.frameOk.coefsInside {d : Decoder} (h : d.frameOk) : d.coefsInside := by
  cases hf : d.frame with
  | none => intro i c hc; simp [frameComp, hf] at hc
  | some f => exact (coefsInside_iff hf).mpr ((frameWf_iff_outline f).mp (h f hf)).2

/-- A frame with a well-formed frame's record is well formed if its coefficients are inside the blocks. -/
theorem Decoder.frameOk.of_record {d d' : Decoder} (h : d.frameOk) (hrecord : d'.record = d.record)
    (hcoefs : d'.coefsInside) : d'.frameOk := by
  intro f' hf'
  obtain ⟨f, hf, houtline⟩ : ∃ f, d.frame = some f ∧ f.outline = f'.outline := by
    simpa [Decoder.record, hf', eq_comm] using hrecord
  refine (frameWf_iff_outline f').mpr ⟨?_, (coefsInside_iff hf').mp hcoefs⟩
  rw [← houtline]
  exact ((frameWf_iff_outline f).mp (h f hf)).1

/-! SET_FRAME. -/

theorem le_maxOf {ns : List Nat} {n : Nat} (h : n ∈ ns) : n ≤ maxOf ns := by
  induction ns with
  | nil => cases h
  | cons m ms ih =>
    rcases List.mem_cons.mp h with rfl | h
    · exact Nat.le_max_left _ _
    · exact (ih h).trans (Nat.le_max_right _ _)

theorem fieldNat_lt {w : Nat} (v : BitVec w) (lo n : Nat) : fieldNat v lo n < 2 ^ n := BitVec.isLt _

/-- What SET_FRAME's checks say where none fails (43 R191). -/
theorem checkFrame_none (h : checkFrame s = none) :
    s.dec.frame = none ∧ (1 ≤ cfgNcomp s ∧ cfgNcomp s ≤ 4) ∧ 1 ≤ cfgSamplesPerLine s ∧ 1 ≤ cfgScanLines s ∧
    (∀ w ∈ frameCompCfgs s, (1 ≤ compH w ∧ compH w ≤ 4) ∧ 1 ≤ compV w ∧ compV w ≤ 4) ∧
    ((frameCompCfgs s).map compCid).Nodup ∧ totalBlocks (mkFrame s) ≤ s.params.maxBlocks := by
  simp only [checkFrame] at h
  split at h
  · cases h
  rename_i hframe
  split at h
  · cases h
  split at h
  · cases h
  split at h
  · cases h
  rename_i hfactors
  split at h
  · cases h
  rename_i hcids
  split at h
  · cases h
  refine ⟨by simpa using hframe, by omega, by omega, by omega, ?_, by simpa using hcids, by omega⟩
  simpa [factorLegal, Nat.one_le_iff_ne_zero] using hfactors

/-- The frame SET_FRAME latches is well formed. -/
theorem frameWf_mkFrame (h : checkFrame s = none) : frameWf (mkFrame s) := by
  obtain ⟨-, hn, hx, hy, hfactors, hcids, -⟩ := checkFrame_none h
  have hlength : (mkFrame s).comps.length = cfgNcomp s := by
    simp [mkFrame, frameCompCfgs, fourToList, hn.2]
  refine ⟨by omega, ⟨hx, fieldNat_lt _ _ 16⟩, ⟨hy, fieldNat_lt _ _ 16⟩, ?_, ?_, rfl, rfl, ?_, ?_, ?_⟩
  · simp [mkFrame, mkComp, Function.comp_def]
  · simp [mkFrame, mkComp, Function.comp_def]
  · simpa [mkFrame, mkComp, Function.comp_def] using hcids
  · intro c hc
    obtain ⟨w, hw, rfl⟩ := List.mem_map.mp hc
    obtain ⟨hh, hv⟩ := hfactors w hw
    exact ⟨hh, hv, le_maxOf (List.mem_map_of_mem hw), le_maxOf (List.mem_map_of_mem hw), fieldNat_lt _ _ 4,
      rfl, rfl, rfl, rfl⟩
  · intro c hc
    obtain ⟨w, -, rfl⟩ := List.mem_map.mp hc
    exact ⟨⟨List.Pairwise.nil, by simp [mkComp]⟩, by simp [mkComp]⟩

/-! BUILD_COMPONENTS. -/

theorem length_tileLine (line : Tile → Eight Byte) (tiles : List Tile) :
    (tiles.flatMap fun t => eightList (line t)).length = 8 * tiles.length := by
  simp [eightList, Nat.mul_comm]

theorem length_of_mem_rowLines {tiles : List Tile} {line : List Byte} (h : line ∈ rowLines tiles) :
    line.length = 8 * tiles.length := by
  simp only [rowLines, List.mem_cons, List.not_mem_nil, or_false] at h
  rcases h with rfl | rfl | rfl | rfl | rfl | rfl | rfl | rfl <;> exact length_tileLine _ tiles

/-- The lines of a component have its geometry (45 R271): eight lines a block row, eight samples a block. -/
theorem planeWf_compLines (kind : IdctKind) (c : Comp) (q : QTable) : planeWf c (compLines kind c q) := by
  constructor
  · simp [compLines, rowLines, Nat.mul_comm]
  · intro line hline
    obtain ⟨row, -, hrow⟩ := List.mem_flatMap.mp hline
    simpa using length_of_mem_rowLines hrow

theorem planesWf_buildPlanes (kind : IdctKind) (qt : Store QTable) : ∀ {comps : List Comp} {planes : List Plane},
    buildPlanes kind qt comps = some planes → planesWf comps planes
  | [], _, h => by cases h; trivial
  | c :: rest, _, h => by
    simp only [buildPlanes] at h
    split at h
    · cases h
    · split at h
      · cases h
      · rename_i planes hplanes
        cases h
        exact ⟨planeWf_compLines kind c _, planesWf_buildPlanes kind qt hplanes⟩

/-! The invariant. -/

theorem linesWf_none (frame : Option Frame) : linesWf frame none := by cases frame <;> trivial

theorem frameInv_busWrite (slot : BitVec 6) (w : Word) (h : frameInv s) : frameInv (busWrite slot w s) := by
  rcases busWrite_cases slot w s with ⟨-, -, hr⟩ | hsame
  · rw [hr]; exact ⟨Nat.zero_le 7, fun f hf => (by cases hf), trivial⟩
  · rw [hsame]; exact h

/-- SET_FRAME latches a well-formed frame, BUILD_COMPONENTS its lines, CLEAR drops both, and a scan, which runs on
a frame that is not built, keeps the record, the form of the coefficient memory and the reader's bound. -/
theorem frameInv_exec {i : Instr} (h : exec i s = .next t) (hs : frameInv s) : frameInv t := by
  obtain ⟨hbits, hframe, hlines⟩ := hs
  cases exec_effect h with
  | clear => exact ⟨hbits, fun f hf => (by cases hf), trivial⟩
  | frame hcheck =>
    have hnone : s.lines = none := by
      cases hl : s.lines with
      | none => rfl
      | some planes => rw [(checkFrame_none hcheck).1, hl] at hlines; exact hlines.elim
    refine ⟨hbits, fun f hf => ?_, ?_⟩
    · cases hf; exact frameWf_mkFrame hcheck
    · show linesWf _ s.lines
      rw [hnone]; exact linesWf_none _
  | @lines f planes hf hplanes =>
    refine ⟨hbits, hframe, ?_⟩
    show linesWf s.dec.frame (some planes)
    rw [hf]
    exact planesWf_buildPlanes _ _ hplanes
  | scan hbuilt hscan =>
    obtain ⟨hsame, hkeep⟩ := hscan
    have hcoefs : t.dec.coefsInside := hkeep _ rulesKeep_coefsInside (Decoder.frameOk.coefsInside hframe)
    refine ⟨hkeep _ rulesKeep_bits hbits, ?_, ?_⟩
    · exact Decoder.frameOk.of_record hframe (hkeep _ (rulesKeep_record s.dec.record) rfl) hcoefs
    · have hnone : t.lines = none := by rw [hsame]; simpa [State.built] using hbuilt
      rw [hnone]
      exact linesWf_none _
  | _ => exact ⟨hbits, hframe, hlines⟩

theorem stepInvariant_frameInv : StepInvariant frameInv where
  taken _ _ _ h := h
  write slot w h := frameInv_busWrite slot w h
  poke _ _ h := h
  discard h := h
  exec := frameInv_exec

/-- Settles O7: every part of a step keeps the reader, the frame, its coefficient memory and the lines well formed. -/
theorem stepsKeepTheFrameWellFormed : Obligations.StepsKeepTheFrameWellFormed :=
  fun _ _ hs h => step_keeps stepInvariant_frameInv h hs

end Sys2Proof.Machine

/-! What an instruction leaves as it was: the tables, the lines, the frame record and the sink (10 R50, 43 R198). -/

namespace Sys2Proof.Machine

open Sys2Proof.Safety

variable {i : Instr} {s t : State}

/-- A host write that is no SOFT_RESET leaves the decoder. -/
theorem dec_busWrite {slot : BitVec 6} {w : Word} (h : ¬ (slot = slotOf 0x004 ∧ w.getLsbD 1 = true)) (s : State) :
    (busWrite slot w s).dec = s.dec := by
  rcases busWrite_cases slot w s with ⟨hslot, hw, -⟩ | hsame
  · exact (h ⟨hslot, hw⟩).elim
  · rw [hsame]

theorem exec_qt (h : exec i s = .next t) (hclear : i ≠ .clear) (hload : i ≠ .loadDqt)
    (h8 : ∀ tq, i ≠ .dqtGroup8 tq) (h16 : ∀ tq, i ≠ .dqtGroup16 tq) : t.qt = s.qt := by
  cases exec_effect h with
  | clear => exact (hclear rfl).elim
  | @quantTable _ wide tq _ _ hi =>
    cases wide
    · exact (hi.elim hload (h8 tq)).elim
    · exact (hi.elim hload (h16 tq)).elim
  | scan _ hscan => rw [hscan.1]
  | _ => rfl

theorem exec_dcTab (h : exec i s = .next t) (hclear : i ≠ .clear) (hload : i ≠ .loadDht)
    (hgroup : ∀ th, i ≠ .dhtGroupDc th) : t.dcTab = s.dcTab := by
  cases exec_effect h with
  | clear => exact (hclear rfl).elim
  | @dcTable _ th _ _ hi => exact (hi.elim hload (hgroup th)).elim
  | scan _ hscan => rw [hscan.1]
  | _ => rfl

theorem exec_acTab (h : exec i s = .next t) (hclear : i ≠ .clear) (hload : i ≠ .loadDht)
    (hgroup : ∀ th, i ≠ .dhtGroupAc th) : t.acTab = s.acTab := by
  cases exec_effect h with
  | clear => exact (hclear rfl).elim
  | @acTable _ th _ _ hi => exact (hi.elim hload (hgroup th)).elim
  | scan _ hscan => rw [hscan.1]
  | _ => rfl

theorem exec_lines (h : exec i s = .next t) (hclear : i ≠ .clear) (hbuild : i ≠ .buildComponents) :
    t.lines = s.lines := by
  cases exec_effect h with
  | clear => exact (hclear rfl).elim
  | lines => exact (hbuild rfl).elim
  | scan _ hscan => rw [hscan.1]
  | _ => rfl

/-- A scan keeps the record; the decoder is otherwise written by CLEAR and SET_FRAME. -/
theorem exec_record (h : exec i s = .next t) (hclear : i ≠ .clear) (hset : i ≠ .setFrame) :
    t.dec.record = s.dec.record := by
  cases exec_effect h with
  | clear => exact (hclear rfl).elim
  | frame => exact (hset rfl).elim
  | scan _ hscan => exact hscan.2 _ (rulesKeep_record s.dec.record) rfl
  | _ => rfl

theorem isSome_frame_of_record {d d' : Decoder} (h : d'.record = d.record) : d'.frame.isSome = d.frame.isSome := by
  simpa [Decoder.record] using congrArg Option.isSome h

theorem exec_sink_grows (h : exec i s = .next t) : ∃ new, t.sink = s.sink ++ new := by
  cases exec_effect h with
  | @image events => exact ⟨_, rfl⟩
  | @pixel _ e => exact ⟨_, rfl⟩
  | scan _ hscan => exact ⟨[], by rw [hscan.1, List.append_nil]⟩
  | _ => exact ⟨[], (List.append_nil s.sink).symm⟩

theorem exec_pixels (h : exec i s = .next t) (hconvert : i ≠ .colorConvert) (hrow : (encode i).1 ≠ .colorDispatch) :
    t.sink = s.sink ∧ t.px = s.px ∧ t.py = s.py := by
  cases exec_effect h with
  | image => exact (hconvert rfl).elim
  | pixel hi => exact (hrow hi).elim
  | scan _ hscan => rw [hscan.1]; exact ⟨rfl, rfl, rfl⟩
  | _ => exact ⟨rfl, rfl, rfl⟩

/-- Settles O20: each store is written by its own instructions only. -/
theorem instructionsWriteOnlyTheirStores : Obligations.InstructionsWriteOnlyTheirStores :=
  ⟨fun _ _ s h => dec_busWrite h s, fun _ _ _ h =>
    ⟨exec_qt h, exec_dcTab h, exec_acTab h, exec_lines h,
      fun hclear hset => have hrecord := exec_record h hclear hset; ⟨isSome_frame_of_record hrecord, hrecord⟩,
      exec_sink_grows h, exec_pixels h⟩⟩

end Sys2Proof.Machine

/-! Reset (10 R59, 70 R351): the state after it meets the invariant, and every register reads its tabled value. -/

namespace Sys2Proof.Machine

open Sys2Proof.Safety

theorem frameInv_reset : frameInv State.reset := ⟨Nat.zero_le 7, fun _ hf => (by cases hf), trivial⟩

theorem ghostsInv_reset : ghostsInv State.reset := by unfold ghostsInv; decide

/-- Settles O5: nothing is stored, latched or built after reset, and no ghost flag need be set. -/
theorem resetIsWellFormed : Obligations.ResetIsWellFormed :=
  ⟨⟨Memory.wf_reset, reservedZero_reset⟩, frameInv_reset, tablesInv_of_empty rfl rfl rfl, ghostsInv_reset⟩

/-- SOFT_RESET keeps nothing that a register shows. -/
theorem readReg_softReset (r : Reg) (s : State) : readReg r (softReset s) = readReg r State.reset := by
  cases r <;> rfl

theorem readReg_reset : ∀ slot : BitVec 6, readReg (regOfSlot slot) State.reset =
    if slot = 0#6 then 0x4A444331#32 else if slot = 36#6 then 7#32 else 0#32 := by decide

theorem readsAsReset_softReset (s : State) : readsAsReset (softReset s) :=
  ⟨fun slot => (readReg_softReset _ s).trans (readReg_reset slot), rfl, rfl, fun _ => rfl, fun _ => rfl, fun _ => rfl,
    rfl, rfl, rfl, rfl, rfl, rfl⟩

theorem softReset_reset : softReset State.reset = State.reset := rfl

theorem busWrite_softReset {w : Word} {s : State} (hbusy : s.busy = false) (hw : w.getLsbD 1 = true) :
    busWrite (slotOf 0x004) w s = softReset s := by
  rw [busWrite_idle hbusy, regOfSlot_eq_ctrl.mpr rfl]
  exact if_pos hw

/-- Settles O11: the power-on state is its own reset, and a write of SOFT_RESET is the reset. -/
theorem resetRegistersReadAsTabled : Obligations.ResetRegistersReadAsTabled :=
  ⟨softReset_reset ▸ readsAsReset_softReset State.reset,
    fun s _ hbusy hw => (busWrite_softReset hbusy hw).symm ▸ readsAsReset_softReset s⟩

end Sys2Proof.Machine

/-! The register window (10 R21 to R49): what each view shows, in bits, and what each write stores. -/

namespace Sys2Proof.Machine

open Sys2Proof.Safety

variable {s : State} {w : Word}

/-! The map (10 R21) where registers come in fours. -/

theorem regOfSlot_compCfg : ∀ i : Fin 4, regOfSlot (slotOf (0x028 + 4 * i.val)) = .compCfg i := by decide
theorem regOfSlot_compBlk : ∀ i : Fin 4, regOfSlot (slotOf (0x044 + 4 * i.val)) = .compBlk i := by decide
theorem regOfSlot_compBlkM : ∀ i : Fin 4, regOfSlot (slotOf (0x054 + 4 * i.val)) = .compBlkM i := by decide
theorem regOfSlot_scanComp : ∀ i : Fin 4, regOfSlot (slotOf (0x068 + 4 * i.val)) = .scanComp i := by decide
theorem regOfSlot_reserved : ∀ slot : BitVec 6, 39#6 ≤ slot → regOfSlot slot = .reserved := by decide

/-! Views made of fields. -/

/-- The bits above a zero-extended value are 0. -/
theorem extractLsb'_setWidth_above {v n start len : Nat} (x : BitVec v) (h : v ≤ start) :
    (x.setWidth n).extractLsb' start len = 0#len := by
  ext i hi
  have : x.getLsbD (start + i) = false := BitVec.getLsbD_of_ge x _ (by omega)
  simp [this]

/-- STATUS's flags (10 R24). -/
theorem statusWord_flags (s : State) :
    (statusWord s).getLsbD 0 = s.busy ∧ (statusWord s).getLsbD 1 = s.done ∧
    (statusWord s).getLsbD 2 = (s.errCode != .none) ∧ (statusWord s).getLsbD 3 = s.scanAborted ∧
    (statusWord s).getLsbD 4 = s.overrun ∧ (statusWord s).getLsbD 5 = s.dec.frame.isSome ∧
    (statusWord s).getLsbD 6 = s.lines.isSome ∧ (statusWord s).getLsbD 7 = false := by
  simp only [statusWord, BitVec.getLsbD_setWidth, BitVec.getLsbD_append]
  simp [State.error, State.frameValid, State.built]

/-- STATUS's codes (60 R321, R322). -/
theorem statusWord_codes (s : State) :
    (statusWord s).extractLsb' 8 8 = errBits s.errCode ∧ (statusWord s).extractLsb' 16 8 = abortBits s.abortCause ∧
    (statusWord s).extractLsb' 24 8 = 0#8 := by
  simp (disch := decide) only [statusWord, BitVec.extractLsb'_setWidth_of_le]
  simp (disch := decide) only [BitVec.extractLsb'_append_eq_of_le, BitVec.extractLsb'_append_eq_of_add_le]
  simp

/-- FRAME_MAX's fields (10 R35). -/
theorem frameMaxWord_fields (f : Frame) :
    (frameMaxWord f).extractLsb' 0 4 = BitVec.ofNat 4 f.maxH ∧
    (frameMaxWord f).extractLsb' 4 4 = BitVec.ofNat 4 f.maxV ∧ (frameMaxWord f).extractLsb' 8 8 = f.maxCid ∧
    (frameMaxWord f).extractLsb' 16 3 = BitVec.ofNat 3 f.comps.length ∧
    (frameMaxWord f).extractLsb' 19 5 = 0#5 := by
  simp (disch := decide) only [frameMaxWord, BitVec.extractLsb'_setWidth_of_le]
  simp (disch := decide) only [BitVec.extractLsb'_append_eq_of_le, BitVec.extractLsb'_append_eq_of_add_le]
  simp

theorem frameMaxWord_progressive (f : Frame) : (frameMaxWord f).getLsbD 24 = f.progressive := by
  simp only [frameMaxWord, BitVec.getLsbD_setWidth, BitVec.getLsbD_append]
  simp

/-- SCAN_INFO's fields (10 R46). -/
theorem scanInfoWord_fields (s : State) :
    (scanInfoWord s).extractLsb' 0 3 = modeBits s.dec.mode ∧
    (scanInfoWord s).extractLsb' 4 3 = acStateBits s.acStateReg := by
  simp (disch := decide) only [scanInfoWord, BitVec.extractLsb'_setWidth_of_le]
  simp (disch := decide) only [BitVec.extractLsb'_append_eq_of_le, BitVec.extractLsb'_append_eq_of_add_le]
  simp

theorem scanInfoWord_reserved (s : State) : (scanInfoWord s).getLsbD 3 = false := by
  simp only [scanInfoWord, BitVec.getLsbD_setWidth, BitVec.getLsbD_append]
  simp

/-! TABLE_VALID (10 R45). -/

theorem slotBits_succ {α : Type} (m : Store α) (n : Nat) :
    slotBits m (n + 1) = 2 ^ n * (slotFull n m).toNat + slotBits m n := by
  cases h : slotFull n m <;> simp [slotBits, h, Nat.add_comm]

theorem slotBits_lt {α : Type} (m : Store α) (n : Nat) : slotBits m n < 2 ^ n := by
  induction n with
  | zero => simp [slotBits]
  | succ n ih =>
    have := Nat.mul_le_mul_left (2 ^ n) (Bool.toNat_le (slotFull n m))
    rw [slotBits_succ, Nat.pow_succ]
    omega

/-- Bit `t` of a store's bits tells whether slot `t` holds a table. -/
theorem testBit_slotBits {α : Type} (m : Store α) (n t : Nat) :
    (slotBits m n).testBit t = (decide (t < n) && slotFull t m) := by
  induction n with
  | zero => simp [slotBits]
  | succ n ih =>
    rw [slotBits_succ, Nat.testBit_two_pow_mul_add _ (slotBits_lt m n), ih, Nat.testBit_bool_toNat]
    rcases Nat.lt_trichotomy t n with h | rfl | h
    · simp [h, Nat.lt_succ_of_lt h]
    · simp
    · have hfar : t - n ≠ 0 ∧ ¬ t < n ∧ ¬ t < n + 1 := by omega
      simp [hfar]

/-- Each bit of TABLE_VALID: the three stores' bits, one above the other. -/
theorem tableValidWord_getLsbD (s : State) (t : Nat) :
    (tableValidWord s).getLsbD t = if t < 16 then slotFull t s.qt
      else if t < 20 then slotFull (t - 16) s.dcTab
      else decide (t < 24) && slotFull (t - 20) s.acTab := by
  have hsum : slotBits s.qt 16 + 2 ^ 16 * slotBits s.dcTab 4 + 2 ^ 20 * slotBits s.acTab 4 =
      2 ^ 16 * (2 ^ 4 * slotBits s.acTab 4 + slotBits s.dcTab 4) + slotBits s.qt 16 := by ring
  unfold tableValidWord
  rw [hsum, BitVec.getLsbD_ofNat, Nat.testBit_two_pow_mul_add _ (slotBits_lt _ 16),
    Nat.testBit_two_pow_mul_add _ (slotBits_lt _ 4)]
  simp only [testBit_slotBits]
  by_cases h16 : t < 16
  · simp [h16, show t < 32 by omega]
  · by_cases h20 : t < 20
    · simp [h16, h20, show t < 32 by omega, show t - 16 < 4 by omega]
    · have hfar : ¬ t - 16 < 4 ∧ t - 16 - 4 = t - 20 := by omega
      by_cases h24 : t < 24
      · simp [h16, h20, h24, hfar, show t < 32 by omega, show t - 20 < 4 by omega]
      · simp [h16, h20, h24, hfar, show ¬ t - 20 < 4 by omega]

theorem tableValidWord_qt (s : State) {t : Nat} (ht : t < 16) :
    (tableValidWord s).getLsbD t = (storeGet t s.qt).isSome := by
  rw [tableValidWord_getLsbD, if_pos ht, slotFull]

theorem tableValidWord_dcTab (s : State) {t : Nat} (ht : t < 4) :
    (tableValidWord s).getLsbD (16 + t) = (storeGet t s.dcTab).isSome := by
  rw [tableValidWord_getLsbD, if_neg (by omega), if_pos (by omega), Nat.add_sub_cancel_left, slotFull]

theorem tableValidWord_acTab (s : State) {t : Nat} (ht : t < 4) :
    (tableValidWord s).getLsbD (20 + t) = (storeGet t s.acTab).isSome := by
  rw [tableValidWord_getLsbD, if_neg (by omega), if_neg (by omega), Nat.add_sub_cancel_left, slotFull,
    decide_eq_true (by omega), Bool.true_and]

theorem tableValidWord_reserved (s : State) : (tableValidWord s).extractLsb' 24 8 = 0#8 := by
  ext i hi
  have h : (tableValidWord s).getLsbD (24 + i) = false := by
    rw [tableValidWord_getLsbD, if_neg (by omega), if_neg (by omega), decide_eq_false (by omega), Bool.false_and]
  simp [h]

/-! The geometry fits its fields (10 R33 to R37). -/

theorem ceilDiv_le_iff {a b k : Nat} (hb : 0 < b) : ceilDiv a b ≤ k ↔ a ≤ k * b := by
  unfold ceilDiv
  rw [← Nat.lt_succ_iff, Nat.div_lt_iff_lt_mul hb, Nat.succ_mul]
  omega

theorem maxOf_le {ns : List Nat} {k : Nat} (h : ∀ n ∈ ns, n ≤ k) : maxOf ns ≤ k := by
  induction ns with
  | nil => exact Nat.zero_le k
  | cons n ns ih => exact Nat.max_le.mpr ⟨h n (by simp), ih fun m hm => h m (by simp [hm])⟩

/-- MCUs along a side of at most 65535 samples: at most 8192 of eight samples or more. -/
theorem ceilDiv_mcu_le {size maxFactor : Nat} (hsize : size < 65536) (hmax : 1 ≤ maxFactor) :
    ceilDiv size (8 * maxFactor) ≤ 8192 := (ceilDiv_le_iff (by omega)).mpr (by omega)

/-- A component's unpadded blocks along such a side. -/
theorem ceilDiv_blocks_le {size factor maxFactor : Nat} (hsize : size < 65536) (hfactor : 1 ≤ factor)
    (hmax : factor ≤ maxFactor) : ceilDiv (ceilDiv size 8 * factor) maxFactor ≤ 8192 :=
  (ceilDiv_le_iff (by omega)).mpr (Nat.mul_le_mul ((ceilDiv_le_iff (by omega)).mpr (by omega)) hmax)

theorem frameWf_maxima {f : Frame} (h : frameWf f) : (1 ≤ f.maxH ∧ f.maxH ≤ 4) ∧ 1 ≤ f.maxV ∧ f.maxV ≤ 4 := by
  obtain ⟨⟨hn, -⟩, -, -, hmaxH, hmaxV, -, -, -, hcomps, -⟩ := h
  obtain ⟨c, hc⟩ := List.exists_mem_of_length_pos hn
  obtain ⟨⟨hh, -⟩, ⟨hv, -⟩, hhmax, hvmax, -⟩ := hcomps c hc
  refine ⟨⟨hh.trans hhmax, ?_⟩, hv.trans hvmax, ?_⟩
  · rw [hmaxH]
    refine maxOf_le fun n hn => ?_
    obtain ⟨c, hc, rfl⟩ := List.mem_map.mp hn
    exact (hcomps c hc).1.2
  · rw [hmaxV]
    refine maxOf_le fun n hn => ?_
    obtain ⟨c, hc, rfl⟩ := List.mem_map.mp hn
    exact (hcomps c hc).2.1.2

theorem frameWf_mcus_le {f : Frame} (h : frameWf f) : f.mcusPerLine ≤ 8192 ∧ f.mcusPerColumn ≤ 8192 := by
  obtain ⟨⟨hmaxH, -⟩, hmaxV, -⟩ := frameWf_maxima h
  obtain ⟨-, ⟨-, hx⟩, ⟨-, hy⟩, -, -, hline, hcolumn, -⟩ := h
  exact ⟨hline ▸ ceilDiv_mcu_le hx hmaxH, hcolumn ▸ ceilDiv_mcu_le hy hmaxV⟩

theorem frameWf_blocks_le {f : Frame} (h : frameWf f) {c : Comp} (hc : c ∈ f.comps) :
    c.bpl ≤ 32768 ∧ c.bpc ≤ 32768 ∧ c.bplm ≤ 32768 ∧ c.bpcm ≤ 32768 := by
  obtain ⟨hline, hcolumn⟩ := frameWf_mcus_le h
  obtain ⟨-, ⟨-, hx⟩, ⟨-, hy⟩, -, -, -, -, -, hcomps, -⟩ := h
  obtain ⟨⟨hh, hh4⟩, ⟨hv, hv4⟩, hhmax, hvmax, -, hbpl, hbpc, hbplm, hbpcm⟩ := hcomps c hc
  have hbpl' := hbpl ▸ ceilDiv_blocks_le hx hh hhmax
  have hbpc' := hbpc ▸ ceilDiv_blocks_le hy hv hvmax
  exact ⟨by omega, by omega, hbplm ▸ Nat.mul_le_mul hline hh4, hbpcm ▸ Nat.mul_le_mul hcolumn hv4⟩

/-! Writes. -/

theorem and_allImplemented (w : Word) : w &&& 0xFFFFFFFF#32 = w := BitVec.and_allOnes

/-- The low `n` bits, by a mask and as a field. -/
theorem and_lowMask (w : Word) (n : Nat) : w &&& BitVec.ofNat 32 (2 ^ n - 1) = (w.extractLsb' 0 n).setWidth 32 := by
  refine BitVec.eq_of_getLsbD_eq fun i hi => ?_
  simp only [BitVec.getLsbD_and, BitVec.getLsbD_ofNat, Nat.testBit_two_pow_sub_one, BitVec.getLsbD_setWidth,
    BitVec.getLsbD_extractLsb', Nat.zero_add, hi, decide_true, Bool.true_and, Bool.and_comm]

theorem setWidth_bit (w : Word) : (BitVec.ofBool (w.getLsbD 0)).setWidth 32 = w &&& 1#32 := by
  have hbit : BitVec.ofBool (w.getLsbD 0) = w.extractLsb' 0 1 := by
    ext i hi
    obtain rfl : i = 0 := by omega
    simp
  rw [hbit]
  exact (and_lowMask w 1).symm

/-- A write of a configuration register stores its implemented bits and changes nothing else. -/
theorem stores_idle (hbusy : s.busy = false) {offset : Nat} {mask : Word} {t : State}
    (hwrite : writeReg (regOfSlot (slotOf offset)) w s = t) (hread : readAt offset t = w &&& mask) :
    stores offset mask w s t := ⟨(busWrite_idle hbusy _ w).trans hwrite, hread⟩

theorem stores_ctrl (hbusy : s.busy = false) (hw : w.getLsbD 1 = false) :
    stores 0x004 1#32 w s { s with irqEn := w.getLsbD 0 } := by
  refine stores_idle hbusy ?_ (setWidth_bit w)
  exact if_neg (by rw [hw]; decide)

theorem stores_compCfg (hbusy : s.busy = false) (i : Fin 4) :
    stores (0x028 + 4 * i.val) compCfgMask w s
      { s with compCfg := fourSet s.compCfg i (w &&& compCfgMask) } := by
  refine stores_idle hbusy ?_ ?_
  · rw [regOfSlot_compCfg]; rfl
  · rw [readAt, regOfSlot_compCfg]
    exact (fourGet_fourSet _ i i _).trans (if_pos rfl)

theorem stores_scanComp (hbusy : s.busy = false) (i : Fin 4) :
    stores (0x068 + 4 * i.val) scanCompMask w s
      { s with scanComp := fourSet s.scanComp i (w &&& scanCompMask) } := by
  refine stores_idle hbusy ?_ ?_
  · rw [regOfSlot_scanComp]; rfl
  · rw [readAt, regOfSlot_scanComp]
    exact (fourGet_fourSet _ i i _).trans (if_pos rfl)

/-! The clauses of O17 that are more than a field. -/

/-- SRC_CS (10 R44) counts the latched frame's components, or the configured ones where there is no frame. -/
theorem srcNcomp_eq {n : Nat} (hframe : ∀ f, s.dec.frame = some f → n = f.comps.length)
    (hnone : s.dec.frame = none → n = cfgNcomp s) : srcNcomp s = n := by
  unfold srcNcomp
  split
  · rename_i f hf; exact (hframe f hf).symm
  · rename_i hf; exact (hnone hf).symm

/-- With no frame, or no component `i` of it, a component's views read 0 (10 R36, R37). -/
theorem compView_none {i : Nat} (h : frameComp s.dec i = none) (view : Comp → Word) : compView s i view = 0#32 := by
  unfold compView
  split
  · rename_i f hf
    have hi : f.comps[i]? = none := by simpa [frameComp, hf] using h
    rw [hi]
  · rfl

theorem compView_some {i : Nat} {c : Comp} (h : frameComp s.dec i = some c) (view : Comp → Word) :
    compView s i view = view c := by
  unfold frameComp at h
  split at h
  · rename_i f hf; simp [compView, hf, h]
  · cases h

theorem readAt_compBlk (i : Fin 4) (s : State) :
    readAt (0x044 + 4 * i.val) s = compView s i.val fun c => halves c.bpl c.bpc := by
  rw [readAt, regOfSlot_compBlk]; rfl

theorem readAt_compBlkM (i : Fin 4) (s : State) :
    readAt (0x054 + 4 * i.val) s = compView s i.val fun c => halves c.bplm c.bpcm := by
  rw [readAt, regOfSlot_compBlkM]; rfl

theorem frameView_some {f : Frame} (h : s.dec.frame = some f) (view : Frame → Word) : frameView s view = view f := by
  simp [frameView, h]

theorem frameView_none (h : s.dec.frame = none) (view : Frame → Word) : frameView s view = 0#32 := by
  simp [frameView, h]

theorem readAt_comp_of_none {i : Fin 4} (h : frameComp s.dec i.val = none) :
    readAt (0x044 + 4 * i.val) s = 0#32 ∧ readAt (0x054 + 4 * i.val) s = 0#32 :=
  ⟨(readAt_compBlk i s).trans (compView_none h _), (readAt_compBlkM i s).trans (compView_none h _)⟩

/-- Settles O17: each view's fields, each register's stored bits, and the writes that are ignored. -/
theorem registersShowAndStoreTheirFields : Obligations.RegistersShowAndStoreTheirFields := by
  refine ⟨fun s => ?status, fun s _ ht => tableValidWord_qt s ht,
    fun s _ ht => ⟨tableValidWord_dcTab s ht, tableValidWord_acTab s ht⟩, tableValidWord_reserved,
    fun s hf => ?noFrame, fun s f hf => ?frame, fun f h => ?geometry, fun s n hframe hnone => ?srcCs,
    fun s => ?scanInfo, fun s => ⟨rfl, rfl, rfl, rfl, rfl, rfl⟩, fun s w hbusy => ?stored, fun s w hbusy => ?ignored⟩
  case status =>
    obtain ⟨hbusy, hdone, herror, haborted, hoverrun, hvalid, hbuilt, hzero⟩ := statusWord_flags s
    obtain ⟨herr, habort, hhigh⟩ := statusWord_codes s
    refine ⟨hbusy, hdone, herror, haborted, hoverrun, hvalid, hbuilt, hzero, hhigh, ?_, ?_⟩
    · show (s.errCode, (statusWord s).extractLsb' 8 8) ∈ _
      rw [herr]
      cases s.errCode <;> decide
    · show (s.abortCause, (statusWord s).extractLsb' 16 8) ∈ _
      rw [habort]
      cases s.abortCause <;> decide
  case noFrame =>
    exact ⟨frameView_none hf _, frameView_none hf _, frameView_none hf _,
      fun i => readAt_comp_of_none (by simp [frameComp, hf])⟩
  case frame =>
    have hmax : readAt 0x040 s = frameMaxWord f := frameView_some hf _
    refine ⟨frameView_some hf _, frameView_some hf _, ?_, fun i c hc => ?_, fun i hi => ?_⟩
    · rw [hmax]
      obtain ⟨hH, hV, hcid, hn, hzero⟩ := frameMaxWord_fields f
      exact ⟨hH, hV, hcid, hn, hzero, frameMaxWord_progressive f, extractLsb'_setWidth_above _ (Nat.le_refl 25)⟩
    · have hcomp : frameComp s.dec i.val = some c := by simpa [frameComp, hf] using hc
      exact ⟨(readAt_compBlk i s).trans (compView_some hcomp _), (readAt_compBlkM i s).trans (compView_some hcomp _)⟩
    · exact readAt_comp_of_none (by simpa [frameComp, hf] using hi)
  case geometry =>
    obtain ⟨⟨-, hH⟩, -, hV⟩ := frameWf_maxima h
    obtain ⟨hline, hcolumn⟩ := frameWf_mcus_le h
    exact ⟨by omega, by omega, hH, hV, fun c hc => frameWf_blocks_le h hc⟩
  case srcCs =>
    rw [← srcNcomp_eq hframe hnone]
    rfl
  case scanInfo =>
    obtain ⟨hmode, hac⟩ := scanInfoWord_fields s
    refine ⟨?_, ?_, scanInfoWord_reserved s, extractLsb'_setWidth_above _ (Nat.le_refl 7)⟩
    · show (s.dec.mode, (scanInfoWord s).extractLsb' 0 3) ∈ _
      rw [hmode]
      cases s.dec.mode with
      | none => decide
      | some mode => cases mode <;> decide
    · show (s.acStateReg, (scanInfoWord s).extractLsb' 4 3) ∈ _
      rw [hac]
      cases s.acStateReg <;> decide
  case stored =>
    have hfull := (and_allImplemented w).symm
    refine ⟨busWrite_idle hbusy _ w, stores_ctrl hbusy, stores_idle hbusy rfl hfull, stores_idle hbusy rfl hfull,
      stores_idle hbusy rfl rfl, stores_idle hbusy rfl hfull, stores_idle hbusy rfl rfl,
      stores_idle hbusy rfl (and_lowMask w 16).symm, stores_idle hbusy rfl rfl, stores_idle hbusy rfl rfl,
      stores_idle hbusy rfl hfull, fun i => ⟨_, _, stores_compCfg hbusy i, stores_scanComp hbusy i, fun j hj => ?_⟩⟩
    exact ⟨(fourGet_fourSet _ i j _).trans (if_neg hj), (fourGet_fourSet _ i j _).trans (if_neg hj)⟩
  case ignored =>
    refine ⟨fun o ho => ?_, fun slot hslot => ?_⟩
    · fin_cases ho <;> exact busWrite_idle hbusy _ w
    · rw [busWrite_idle hbusy, regOfSlot_reserved slot hslot]
      exact ⟨rfl, rfl⟩

end Sys2Proof.Machine

/-! What an instruction leaves of the host's own state: stream memory, the parameters, CTRL, STREAM_LEN, the pending
word, the host's moves and the latch always, the configuration registers but for CLEAR (20 R61, 40 R124). -/

namespace Sys2Proof.Machine

variable {i : Instr} {s t : State}

/-- Equal in stream memory, the parameters, CTRL.IRQ_EN, STREAM_LEN, the pending word, the host's moves, the values it
has read and the latch. -/
def SameHostState (s t : State) : Prop :=
  t.mem = s.mem ∧ t.params = s.params ∧ t.irqEn = s.irqEn ∧ t.streamLen = s.streamLen ∧ t.pending = s.pending ∧
    t.agenda = s.agenda ∧ t.readLog = s.readLog ∧ t.latch = s.latch

theorem SameHostState.refl (s : State) : SameHostState s s := ⟨rfl, rfl, rfl, rfl, rfl, rfl, rfl, rfl⟩

/-- Equal in the configuration registers (10 R30 to R43). -/
def SameConfig (s t : State) : Prop :=
  t.frameCfg = s.frameCfg ∧ t.frameSize = s.frameSize ∧ t.compCfg = s.compCfg ∧ t.scanCfg = s.scanCfg ∧
    t.scanComp = s.scanComp ∧ t.restartInterval = s.restartInterval ∧ t.srcCsCfg = s.srcCsCfg ∧
    t.outCfg = s.outCfg ∧ t.outSize = s.outSize

theorem SameConfig.refl (s : State) : SameConfig s s := ⟨rfl, rfl, rfl, rfl, rfl, rfl, rfl, rfl, rfl⟩

theorem SameButScan.sameHostState (h : SameButScan s t) : SameHostState s t := by
  rw [h]; exact SameHostState.refl s

theorem SameButScan.sameConfig (h : SameButScan s t) : SameConfig s t := by
  rw [h]; exact SameConfig.refl s

theorem exec_sameHostState (h : exec i s = .next t) : SameHostState s t := by
  cases exec_effect h with
  | scan _ hscan => exact hscan.1.sameHostState
  | _ => exact SameHostState.refl s

theorem exec_sameConfig (h : exec i s = .next t) (hclear : i ≠ .clear) : SameConfig s t := by
  cases exec_effect h with
  | clear => exact (hclear rfl).elim
  | scan _ hscan => exact hscan.1.sameConfig
  | _ => exact SameConfig.refl s

/-- Settles O19: every effect of an instruction leaves the host's state, and every effect but CLEAR's leaves the
configuration. -/
theorem instructionsLeaveHostRegisters : Obligations.InstructionsLeaveHostRegisters := by
  intro i s t h
  obtain ⟨hmem, hparams, hirq, hlen, hpending, hagenda, hlog, hlatch⟩ := exec_sameHostState h
  exact ⟨fun a => congrArg (Memory.read · a) hmem, hmem, hparams, hirq, hlen, hpending, hagenda, hlog, hlatch,
    exec_sameConfig h⟩

end Sys2Proof.Machine

/-! Stream memory is read through `streamByte` alone (20 R61), so replacing it by one that gives the same stream bytes
replaces it in what an instruction answers, and changes nothing else. -/

namespace Sys2Proof.Machine

/-- The state with another stream memory. -/
def State.withMem (m : List Host.Cell) (s : State) : State := { s with mem := m }

/-- A step's answer with another stream memory in its next state. -/
def Result.withMem (m : List Host.Cell) : Result → Result
  | .next t => .next (t.withMem m)
  | .fault f => .fault f
  | .refused r => .refused r

variable {m : List Host.Cell} {s : State}

@[simp] theorem withMem_dec (m : List Host.Cell) (s : State) : (s.withMem m).dec = s.dec := rfl
@[simp] theorem withMem_lines (m : List Host.Cell) (s : State) : (s.withMem m).lines = s.lines := rfl
@[simp] theorem withMem_qt (m : List Host.Cell) (s : State) : (s.withMem m).qt = s.qt := rfl
@[simp] theorem withMem_params (m : List Host.Cell) (s : State) : (s.withMem m).params = s.params := rfl
@[simp] theorem withMem_streamPos (m : List Host.Cell) (s : State) : (s.withMem m).streamPos = s.streamPos := rfl
@[simp] theorem withMem_frameValid (m : List Host.Cell) (s : State) : (s.withMem m).frameValid = s.frameValid := rfl
@[simp] theorem withMem_built (m : List Host.Cell) (s : State) : (s.withMem m).built = s.built := rfl

/-- Two memories that agree below STREAM_LEN give the same stream bytes. -/
theorem streamByte_withMem (h : ∀ a, a < s.streamLen.toNat → Memory.read m a = Memory.read s.mem a) :
    (s.withMem m).streamByte = s.streamByte := by
  funext a
  exact if_ctx_congr Iff.rfl (fun ha => congrArg some (h a ha)) fun _ => rfl

/-! The ends of a command and of a scan read no stream memory. -/

theorem endCommand_withMem (x : Except CommandError State) :
    endCommand (s.withMem m) (x.map (State.withMem m)) = Result.withMem m (endCommand s x) := by
  cases x <;> rfl

theorem endScanBy_withMem (e : Exit) (d : Decoder) :
    endScanBy (s.withMem m) e d = Result.withMem m (endScanBy s e d) := by
  cases e <;> rfl

theorem scanOutcome_withMem (x : Res Half) : scanOutcome (s.withMem m) x = Result.withMem m (scanOutcome s x) := by
  cases x with
  | ok marker d => rfl
  | raise e d => exact endScanBy_withMem e d

/-! The commands and rows that read no stream memory. -/

theorem fatalEnd_withMem (c : ErrCode) (pos : Word) :
    fatalEnd c pos (s.withMem m) = Result.withMem m (fatalEnd c pos s) := rfl

theorem setFrame_withMem : setFrame (s.withMem m) = (setFrame s).map (State.withMem m) := by
  have hcheck : checkFrame (s.withMem m) = checkFrame s := rfl
  unfold setFrame
  rw [hcheck]
  cases checkFrame s <;> rfl

theorem buildComponents_withMem : buildComponents (s.withMem m) = (buildComponents s).map (State.withMem m) := by
  unfold buildComponents
  rw [withMem_dec, withMem_built, withMem_params, withMem_qt]
  cases s.dec.frame with
  | none => rfl
  | some f =>
    dsimp only
    split
    · rfl
    · cases buildPlanes s.params.idct s.qt f.comps <;> rfl

theorem emitImage_withMem (f : Frame) (planes : List Plane) (cv : Conversion) :
    emitImage (s.withMem m) f planes cv = Result.withMem m (emitImage s f planes cv) := by
  have hevents : pixelEvents (s.withMem m).params.colorArith cv f planes (outW (s.withMem m)) (outH (s.withMem m)) =
      pixelEvents s.params.colorArith cv f planes (outW s) (outH s) := rfl
  unfold emitImage
  rw [hevents]
  cases pixelEvents s.params.colorArith cv f planes (outW s) (outH s) <;> rfl

theorem execColorConvert_withMem : execColorConvert (s.withMem m) = Result.withMem m (execColorConvert s) := by
  have hcheck : ∀ n src, colorRejected (s.withMem m) n src = colorRejected s n src := fun _ _ => rfl
  have hsrc : srcCs (s.withMem m) = srcCs s := rfl
  have hout : outCs (s.withMem m) = outCs s := rfl
  simp only [execColorConvert, withMem_dec, withMem_lines, withMem_streamPos, hcheck, hsrc, hout]
  split
  · split
    · rfl
    · split
      · rfl
      · exact emitImage_withMem _ _ _
  · rfl

theorem emitPixel_withMem (cv : Conversion) : emitPixel cv (s.withMem m) = Result.withMem m (emitPixel cv s) := by
  have hout : outW (s.withMem m) = outW s ∧ outH (s.withMem m) = outH s := ⟨rfl, rfl⟩
  have hpixel : (s.withMem m).px = s.px ∧ (s.withMem m).py = s.py := ⟨rfl, rfl⟩
  simp only [emitPixel, withMem_dec, withMem_lines, withMem_params, withMem_streamPos, hout, hpixel]
  split
  · split <;> rfl
  · rfl

theorem markerEndsScan_withMem (marker : Half) :
    markerEndsScan marker (s.withMem m) = Result.withMem m (markerEndsScan marker s) := by
  unfold markerEndsScan
  rw [withMem_frameValid, withMem_built]
  split <;> rfl

theorem restartMarker_withMem (marker : Half) :
    restartMarker marker (s.withMem m) = Result.withMem m (restartMarker marker s) := by
  unfold restartMarker
  rw [withMem_frameValid, withMem_built, withMem_dec]
  split
  · split <;> rfl
  · rfl

/-- A rule run by itself: what it reads of the stream stands in the rule. -/
theorem runRule_withMem (rule : Decoder → Res Unit) :
    runRule (s.withMem m) rule = Result.withMem m (runRule s rule) := by
  unfold runRule
  rw [withMem_frameValid, withMem_built, withMem_dec]
  split
  · cases rule s.dec with
    | ok _ d => rfl
    | raise e d => exact endScanBy_withMem e d
  · rfl

/-! The commands and rows that read the stream. -/

section Stream

variable (hstream : (s.withMem m).streamByte = s.streamByte)
include hstream

theorem readBytes_withMem (n : Nat) : ∀ cur, readBytes (s.withMem m) n cur = readBytes s n cur := by
  induction n with
  | zero => exact fun _ => rfl
  | succ n ih => intro cur; simp only [readBytes, hstream, ih]

theorem dqtGroup_withMem (wide : Bool) (tq : BitVec 4) :
    dqtGroup wide tq (s.withMem m) = (dqtGroup wide tq s).map (State.withMem m) := by
  simp only [dqtGroup, readBytes_withMem hstream, withMem_qt, withMem_streamPos]
  split
  · rfl
  · split <;> rfl

theorem dhtGroup_withMem (ac : Bool) (th : BitVec 2) :
    dhtGroup ac th (s.withMem m) = (dhtGroup ac th s).map (State.withMem m) := by
  simp only [dhtGroup, readBytes_withMem hstream, withMem_params, withMem_streamPos]
  split
  · rfl
  · split
    · rfl
    · split
      · rfl
      · split
        · rfl
        · cases ac <;> rfl

theorem execDqtGroup_withMem (wide : Bool) (tq : BitVec 4) :
    endCommand (s.withMem m) (dqtGroup wide tq (s.withMem m)) =
      Result.withMem m (endCommand s (dqtGroup wide tq s)) := by
  rw [dqtGroup_withMem hstream]
  exact endCommand_withMem _

theorem execDhtGroup_withMem (ac : Bool) (th : BitVec 2) :
    endCommand (s.withMem m) (dhtGroup ac th (s.withMem m)) = Result.withMem m (endCommand s (dhtGroup ac th s)) := by
  rw [dhtGroup_withMem hstream]
  exact endCommand_withMem _

theorem execLoadDqt_withMem : execLoadDqt (s.withMem m) = Result.withMem m (execLoadDqt s) := by
  simp only [execLoadDqt, hstream, withMem_streamPos]
  split
  · rfl
  · simp only [dqtByte]
    split
    · exact execDqtGroup_withMem hstream false _
    · split
      · exact execDqtGroup_withMem hstream true _
      · split
        · rfl
        · split <;> rfl

theorem execLoadDht_withMem : execLoadDht (s.withMem m) = Result.withMem m (execLoadDht s) := by
  simp only [execLoadDht, hstream, withMem_streamPos]
  split
  · rfl
  · simp only [dhtByte]
    split
    · rfl
    · split
      · exact execDhtGroup_withMem hstream false _
      · exact execDhtGroup_withMem hstream true _

theorem runScan_withMem : runScan (s.withMem m) = Result.withMem m (runScan s) := by
  simp only [runScan, hstream, withMem_dec, withMem_params]
  split
  · exact scanOutcome_withMem _
  · rfl

theorem execDecodeScan_withMem : execDecodeScan (s.withMem m) = Result.withMem m (execDecodeScan s) := by
  have hcheck : ∀ f, checkScan (s.withMem m) f = checkScan s f := fun _ => rfl
  simp only [execDecodeScan, hcheck, withMem_dec, withMem_streamPos]
  split
  · rfl
  · rename_i f _
    split
    · rfl
    · exact runScan_withMem (s := startScan s f) hstream

/-- A DC symbol's row, whose rule reads the stream. -/
theorem runDc_withMem (rule : (Nat → Option Byte) → Nat → Decoder → Res Unit) :
    runDc (s.withMem m) (rule (s.withMem m).streamByte) = Result.withMem m (runDc s (rule s.streamByte)) := by
  rw [hstream]
  exact runRule_withMem _

/-- An AC symbol's row, whose rule reads the stream. -/
theorem runAc_withMem (rule : (Nat → Option Byte) → AcKind → Decoder → Res Unit) :
    runAc (s.withMem m) (rule (s.withMem m).streamByte) = Result.withMem m (runAc s (rule s.streamByte)) := by
  rw [hstream]
  exact runRule_withMem _

theorem runMode_withMem (mode : ScanMode) : runMode mode (s.withMem m) = Result.withMem m (runMode mode s) := by
  simp only [runMode, hstream]
  exact runRule_withMem _

/-- Every instruction answers the same, with the other memory in its next state. -/
theorem exec_withMem (i : Instr) : exec i (s.withMem m) = Result.withMem m (exec i s) := by
  cases i with
  | nop | clear => rfl
  | illegalCmdLow | illegalCmdOther | dqtReserved2 | dqtReserved4 | dqtReserved8 | dhtReserved | colorModeOther =>
    exact fatalEnd_withMem _ _
  | loadDqt => exact execLoadDqt_withMem hstream
  | loadDht => exact execLoadDht_withMem hstream
  | setFrame => exact (congrArg (endCommand _) setFrame_withMem).trans (endCommand_withMem _)
  | buildComponents => exact (congrArg (endCommand _) buildComponents_withMem).trans (endCommand_withMem _)
  | decodeScan => exact execDecodeScan_withMem hstream
  | colorConvert => exact execColorConvert_withMem
  | dqtGroup8 tq => exact execDqtGroup_withMem hstream false tq
  | dqtGroup16 tq => exact execDqtGroup_withMem hstream true tq
  | dhtGroupDc th => exact execDhtGroup_withMem hstream false th
  | dhtGroupAc th => exact execDhtGroup_withMem hstream true th
  | baseline | dcFirst | dcSucc | acFirst | acSucc => exact runMode_withMem hstream _
  | dcDiff t => exact runDc_withMem hstream fun src sh => dcCategory src sh t.toNat
  | dcReserved16 | dcReserved32 | dcReserved64 | dcReserved128 =>
    exact runDc_withMem hstream fun _ _ => dcBadCategory
  | acZrl => exact runAc_withMem hstream fun _ => acRun16
  | dcSuccBit | acSuccCorrectionBit => exact runRule_withMem _
  | stuffedFF => exact runRule_withMem fun d => (deliver 0xFF#8 d).andThen fun _ d' => .ok () d'
  | acEob0 r | acEob8 r | acEob12 r => exact runAc_withMem hstream fun src a => acEob src a r.toNat
  | acEob14 => exact runAc_withMem hstream fun src a => acEob src a 14
  | acRunSize1 r => exact runAc_withMem hstream fun src a => acRunSize src a r.toNat 1
  | acRunSize2 r sz | acRunSize4 r sz | acRunSize8 r sz =>
    exact runAc_withMem hstream fun src a => acRunSize src a r.toNat sz.toNat
  | soi | eoi | sof0 | sof2 | dht | dqt | sos | dri | app | com => exact markerEndsScan_withMem _
  | rst => exact restartMarker_withMem _
  | color1cYCbCrOutYCbCr | color1cYCbCrOutRgb | color1cCmykOutYCbCr | color1cCmykOutRgb | color1cYcckOutYCbCr
  | color1cYcckOutRgb | color2cYCbCrOutYCbCr | color2cYCbCrOutRgb | color2cCmykOutYCbCr | color2cCmykOutRgb
  | color2cYcckOutYCbCr | color2cYcckOutRgb | color3cYCbCrOutYCbCr | color3cYCbCrOutRgb | color4cCmykOutYCbCr
  | color4cCmykOutRgb | color4cYcckOutYCbCr | color4cYcckOutRgb => exact emitPixel_withMem _

end Stream

/-- Settles O22: memories that agree below STREAM_LEN give the same stream bytes, which are all an instruction reads
of them. -/
theorem bytesBeyondStreamLenNeverMatter : Obligations.BytesBeyondStreamLenNeverMatter := by
  intro i s t m hbelow h
  calc exec i (s.withMem m)
      = Result.withMem m (exec i s) := exec_withMem (streamByte_withMem hbelow) i
    _ = .next (t.withMem m) := congrArg (Result.withMem m) h

end Sys2Proof.Machine

/-! The encoding tables (30 R82 to R101), said once for each format: the row that a word's fields choose, and that the
instruction a word decodes to is well formed and encodes to that word again. -/

namespace Sys2Proof

/-! Fields of a word. -/

/-- A word with no bit at or above bit `n` is its low `n` bits. -/
theorem setWidth_of_fits {n : Nat} {w : Word} (h : w >>> n = 0#32) : (w.setWidth n).setWidth 32 = w := by
  refine BitVec.eq_of_getLsbD_eq fun i hi => ?_
  by_cases hn : i < n
  · simp [hi, hn]
  · have : (w >>> n).getLsbD (i - n) = false := by rw [h]; simp
    rw [BitVec.getLsbD_ushiftRight, Nat.add_sub_cancel' (by omega)] at this
    simp [hn, this]

theorem setWidth_fits {n : Nat} (v : BitVec n) : (v.setWidth 32 : Word) >>> n = 0#32 := by
  refine BitVec.eq_of_getLsbD_eq fun i _ => ?_
  simp

theorem setWidth_back {n : Nat} (hn : n ≤ 32) (v : BitVec n) : (v.setWidth 32).setWidth n = v := by
  rw [BitVec.setWidth_setWidth_of_le v hn, BitVec.setWidth_eq]

/-- A mask of the bits from `n` up. -/
theorem and_highMask {w : Nat} (v : BitVec w) (n : Nat) :
    v &&& ~~~BitVec.ofNat w (2 ^ n - 1) = (v >>> n) <<< n := by
  refine BitVec.eq_of_getLsbD_eq fun i hi => ?_
  rw [BitVec.getLsbD_and, BitVec.getLsbD_not, BitVec.getLsbD_ofNat, Nat.testBit_two_pow_sub_one,
    BitVec.getLsbD_shiftLeft, BitVec.getLsbD_ushiftRight]
  by_cases hn : i < n
  · simp [hn, hi]
  · simp [hn, hi, Nat.add_sub_cancel' (Nat.le_of_not_lt hn)]

/-- A word is its bits from `n` up with its low `n` bits. -/
theorem highBits_or_field {w : Nat} (v : BitVec w) (n : Nat) :
    (v &&& ~~~BitVec.ofNat w (2 ^ n - 1)) ||| (bitsAt v 0 n).setWidth w = v := by
  rw [and_highMask]
  refine BitVec.eq_of_getLsbD_eq fun i hi => ?_
  by_cases hn : i < n
  · simp [bitsAt, hn, hi]
  · simp [bitsAt, hn, hi, Nat.add_sub_cancel' (Nat.le_of_not_lt hn)]

theorem nibbles_fields (b : Byte) : nibbles (bitsAt b 4 4) (bitsAt b 0 4) = b :=
  (BitVec.extractLsb'_append_extractLsb'_eq_extractLsb' rfl).trans BitVec.extractLsb'_eq_self

/-! The row that a word's fields choose. -/

/-- 30 R84: the words of OPCODE 8 to 15 with MBZ = 0. -/
theorem illegalCmdLow_mask (w : Word) : w &&& 0xFFFFFFF8#32 = 8#32 ↔ 8#32 ≤ w ∧ w < 16#32 := by
  rw [show w &&& 0xFFFFFFF8#32 = (w >>> 3) <<< 3 from and_highMask w 3]
  bv_omega

/-- 30 R84: every word from 8 up is an illegal command. -/
theorem decodeCmd_illegal {w : Word} (h : 8#32 ≤ w) : decodeCmd w =
    if w < 16#32 then .illegalCmdLow (bitsAt w 0 8) else .illegalCmdOther w := by
  have hcommand : ∀ c : Word, c < 8#32 → w ≠ c := by bv_omega
  have hlow : w &&& 0xFFFFFFF8#32 = 8#32 ↔ w < 16#32 := (illegalCmdLow_mask w).trans (and_iff_right h)
  unfold decodeCmd
  rw [if_neg (hcommand 0#32 (by decide)), if_neg (hcommand 1#32 (by decide)), if_neg (hcommand 2#32 (by decide)),
    if_neg (hcommand 3#32 (by decide)), if_neg (hcommand 4#32 (by decide)), if_neg (hcommand 5#32 (by decide)),
    if_neg (hcommand 6#32 (by decide)), if_neg (hcommand 7#32 (by decide))]
  simp only [hlow]

/-- 30 R88, R101: a PqTq byte's row is chosen by Pq. -/
theorem decodeDqt_nibbles (pq tq : BitVec 4) : decodeDqt (nibbles pq tq) =
    if pq = 0#4 then .dqtGroup8 tq
    else if pq = 1#4 then .dqtGroup16 tq
    else if pq < 4#4 then .dqtReserved2 pq tq
    else if pq < 8#4 then .dqtReserved4 pq tq
    else .dqtReserved8 pq tq := by revert pq tq; decide

/-- 30 R89, R101: a TcTh byte's row is chosen by Tc, where Th is at most 3. -/
theorem decodeDht_nibbles (tc th : BitVec 4) : decodeDht (nibbles tc th) =
    if 1#4 < tc ∨ 3#4 < th then .dhtReserved tc th
    else if tc = 0#4 then .dhtGroupDc (th.setWidth 2)
    else .dhtGroupAc (th.setWidth 2) := by revert tc th; decide

/-- 30 R91: a DC symbol's row is chosen by its size. -/
theorem decodeDcSymbol_eq (t : Byte) : decodeDcSymbol t =
    if t < 16#8 then .dcDiff (t.setWidth 4)
    else if t < 32#8 then .dcReserved16 t
    else if t < 64#8 then .dcReserved32 t
    else if t < 128#8 then .dcReserved64 t
    else .dcReserved128 t := by revert t; decide

/-- 30 R92, R93: an AC symbol's row is chosen by its size, and by its run where the size is 0. -/
theorem decodeAcSymbol_nibbles (r sz : BitVec 4) : decodeAcSymbol (nibbles r sz) =
    if sz = 0#4 then
      if r < 8#4 then .acEob0 r else if r < 12#4 then .acEob8 r else if r < 14#4 then .acEob12 r
      else if r = 14#4 then .acEob14 else .acZrl
    else if sz = 1#4 then .acRunSize1 r
    else if sz < 4#4 then .acRunSize2 r sz
    else if sz < 8#4 then .acRunSize4 r sz
    else .acRunSize8 r sz := by revert r sz; decide

/-! The decoder on a word of its format's width. -/

theorem decode_cmd (w : Word) : decode .cmd w = .ok (decodeCmd w) := by
  simp [decode, Format.width, BitVec.ushiftRight_eq_zero]

theorem decode_dqt (b : Byte) : decode .dqtPqTq (b.setWidth 32) = .ok (decodeDqt b) := by
  simp [decode, Format.width, setWidth_fits]

theorem decode_dht (b : Byte) : decode .dhtTcTh (b.setWidth 32) = .ok (decodeDht b) := by
  simp [decode, Format.width, setWidth_fits]

theorem decode_scanMode (b : BitVec 3) : decode .scanMode (b.setWidth 32) = .ok (decodeScanMode b) := by
  simp [decode, Format.width, setWidth_fits]

theorem decode_dcSymbol (t : Byte) : decode .dcSymbol (t.setWidth 32) = .ok (decodeDcSymbol t) := by
  simp [decode, Format.width, setWidth_fits]

theorem decode_acSymbol (rs : Byte) : decode .acSymbol (rs.setWidth 32) = .ok (decodeAcSymbol rs) := by
  simp [decode, Format.width, setWidth_fits]

theorem decode_dcSuccBit (b : BitVec 1) : decode .dcSuccBit (b.setWidth 32) = .ok (.dcSuccBit (b.getLsbD 0)) := by
  simp [decode, Format.width, setWidth_fits]

theorem decode_acSuccBit (b : BitVec 1) :
    decode .acSuccBit (b.setWidth 32) = .ok (.acSuccCorrectionBit (b.getLsbD 0)) := by
  simp [decode, Format.width, setWidth_fits]

theorem decode_marker_ok {m : Half} {i : Instr} :
    decode .marker (m.setWidth 32) = .ok i ↔ decodeMarker m = some i := by
  simp only [decode, Format.width, setWidth_fits, ne_eq, not_true_eq_false, if_false, setWidth_back (n := 16) (by decide)]
  cases decodeMarker m <;> simp

theorem decode_color (b : BitVec 7) : decode .colorDispatch (b.setWidth 32) = .ok (decodeColor b) := by
  simp [decode, Format.width, setWidth_fits]

/-! Every word decodes to a well-formed instruction that encodes to it. -/

/-- The instruction is well formed and its encoding is the word `w` of format `f`. -/
def Instr.EncodesTo (f : Format) (w : Word) (i : Instr) : Prop := i.wf = true ∧ encode i = (f, w)

theorem decodeDqt_encodesTo (b : Byte) : (decodeDqt b).EncodesTo .dqtPqTq (b.setWidth 32) := by
  obtain ⟨pq, tq, rfl⟩ : ∃ pq tq, b = nibbles pq tq := ⟨_, _, (nibbles_fields b).symm⟩
  rw [decodeDqt_nibbles]
  split_ifs with h0 h1
  · subst h0; exact ⟨rfl, rfl⟩
  · subst h1; exact ⟨rfl, rfl⟩
  all_goals exact ⟨by simp [Instr.wf]; bv_omega, rfl⟩

theorem decodeDht_encodesTo (b : Byte) : (decodeDht b).EncodesTo .dhtTcTh (b.setWidth 32) := by
  obtain ⟨tc, th, rfl⟩ : ∃ tc th, b = nibbles tc th := ⟨_, _, (nibbles_fields b).symm⟩
  have hth : ¬ 3#4 < th → (th.setWidth 2).setWidth 4 = th := by revert th; decide
  rw [decodeDht_nibbles]
  split_ifs with hr h0
  · exact ⟨by simpa [Instr.wf] using hr, rfl⟩
  · rw [not_or] at hr
    subst h0
    exact ⟨rfl, by simp only [encode, hth hr.2]⟩
  · rw [not_or] at hr
    obtain rfl : tc = 1#4 := by bv_omega
    exact ⟨rfl, by simp only [encode, hth hr.2]⟩

theorem decodeDcSymbol_encodesTo (t : Byte) : (decodeDcSymbol t).EncodesTo .dcSymbol (t.setWidth 32) := by
  have hlow : t < 16#8 → nibbles 0#4 (t.setWidth 4) = t := by revert t; decide
  rw [decodeDcSymbol_eq]
  split_ifs with h16
  · exact ⟨rfl, by simp only [encode, hlow h16]⟩
  all_goals exact ⟨by simp [Instr.wf]; bv_omega, rfl⟩

theorem decodeAcSymbol_encodesTo (rs : Byte) : (decodeAcSymbol rs).EncodesTo .acSymbol (rs.setWidth 32) := by
  obtain ⟨r, sz, rfl⟩ : ∃ r sz, rs = nibbles r sz := ⟨_, _, (nibbles_fields rs).symm⟩
  rw [decodeAcSymbol_nibbles]
  split_ifs with h0 h8 h12 h14 he h1
  case pos | pos | pos => subst h0; exact ⟨by simp [Instr.wf]; bv_omega, rfl⟩
  · subst h0; subst he; exact ⟨rfl, rfl⟩
  · obtain rfl : r = 15#4 := by bv_omega
    subst h0; exact ⟨rfl, rfl⟩
  · subst h1; exact ⟨rfl, rfl⟩
  all_goals exact ⟨by simp [Instr.wf]; bv_omega, rfl⟩

/-- 30 R97: the eight selectors. -/
theorem decodeScanMode_encodesTo (b : BitVec 3) : (decodeScanMode b).EncodesTo .scanMode (b.setWidth 32) := by
  unfold Instr.EncodesTo; revert b; decide

/-- 30 R99: the 128 selectors. -/
theorem decodeColor_encodesTo (b : BitVec 7) : (decodeColor b).EncodesTo .colorDispatch (b.setWidth 32) := by
  unfold Instr.EncodesTo; revert b; decide

theorem decodeCmd_encodesTo (w : Word) : (decodeCmd w).EncodesTo .cmd w := by
  by_cases h : w < 8#32
  · obtain ⟨n, rfl⟩ : ∃ n : Fin 8, w = BitVec.ofNat 32 n.val := ⟨⟨w.toNat, h⟩, by simp⟩
    unfold Instr.EncodesTo; revert n; decide
  · have h8 : 8#32 ≤ w := by bv_omega
    rw [decodeCmd_illegal h8]
    split_ifs with h16
    · have hop : (bitsAt w 0 8).toNat = w.toNat := by
        have : w.toNat < 16 := h16
        simp [bitsAt]; omega
      refine ⟨?_, ?_⟩
      · simp [Instr.wf, BitVec.le_def, BitVec.lt_def, hop]
        exact ⟨h8, h16⟩
      · exact congrArg _ (BitVec.eq_of_toNat_eq (by simp only [BitVec.toNat_setWidth, hop]; omega))
    · exact ⟨by simp [Instr.wf]; bv_omega, rfl⟩

/-- A value that selects one marker instruction, before the values that are tried after it. -/
theorem encodesTo_ite {m : Half} {c : Prop} [Decidable c] {a : Instr} {later : Option Instr}
    (ha : c → a.EncodesTo .marker (m.setWidth 32)) (hlater : ∀ i, later = some i → i.EncodesTo .marker (m.setWidth 32)) :
    ∀ i, (if c then some a else later) = some i → i.EncodesTo .marker (m.setWidth 32) := by
  split
  · rename_i hc; rintro _ ⟨⟩; exact ha hc
  · exact hlater

theorem rst_encodesTo (n : BitVec 3) : (Instr.rst n).EncodesTo .marker ((0xFFD0#16 ||| n.setWidth 16).setWidth 32) := by
  unfold Instr.EncodesTo; revert n; decide

theorem app_encodesTo (n : BitVec 4) : (Instr.app n).EncodesTo .marker ((0xFFE0#16 ||| n.setWidth 16).setWidth 32) := by
  unfold Instr.EncodesTo; revert n; decide

theorem decodeMarker_encodesTo (m : Half) : ∀ i, decodeMarker m = some i → i.EncodesTo .marker (m.setWidth 32) := by
  have hconst : ∀ {i : Instr} {c : Half}, i.EncodesTo .marker (c.setWidth 32) → m = c →
      i.EncodesTo .marker (m.setWidth 32) := fun hi hm => hm ▸ hi
  have hrst : m &&& 0xFFF8#16 = 0xFFD0#16 → m = 0xFFD0#16 ||| (bitsAt m 0 3).setWidth 16 := fun h =>
    (highBits_or_field m 3).symm.trans (congrArg (· ||| _) h)
  have happ : m &&& 0xFFF0#16 = 0xFFE0#16 → m = 0xFFE0#16 ||| (bitsAt m 0 4).setWidth 16 := fun h =>
    (highBits_or_field m 4).symm.trans (congrArg (· ||| _) h)
  unfold decodeMarker
  refine encodesTo_ite (hconst ⟨rfl, rfl⟩) (encodesTo_ite (hconst ⟨rfl, rfl⟩)
    (encodesTo_ite (fun h => hconst (rst_encodesTo _) (hrst h)) ?_))
  refine encodesTo_ite (hconst ⟨rfl, rfl⟩) (encodesTo_ite (hconst ⟨rfl, rfl⟩) (encodesTo_ite (hconst ⟨rfl, rfl⟩) ?_))
  refine encodesTo_ite (hconst ⟨rfl, rfl⟩) (encodesTo_ite (hconst ⟨rfl, rfl⟩) (encodesTo_ite (hconst ⟨rfl, rfl⟩) ?_))
  refine encodesTo_ite (fun h => hconst (app_encodesTo _) (happ h)) ?_
  exact encodesTo_ite (hconst ⟨rfl, rfl⟩) (encodesTo_ite (hconst ⟨rfl, rfl⟩) fun _ h => nomatch h)

theorem rawBit_encodesTo (b : BitVec 1) :
    (Instr.dcSuccBit (b.getLsbD 0)).EncodesTo .dcSuccBit (b.setWidth 32) ∧
    (Instr.acSuccCorrectionBit (b.getLsbD 0)).EncodesTo .acSuccBit (b.setWidth 32) := by
  unfold Instr.EncodesTo; revert b; decide

/-- A word that is accepted fits its format. -/
theorem fits_of_decode {f : Format} {w : Word} {i : Instr} (h : decode f w = .ok i) :
    ∃ v : BitVec f.width, w = v.setWidth 32 := by
  unfold decode at h
  split at h
  · cases h
  · rename_i hfits
    exact ⟨w.setWidth f.width, (setWidth_of_fits (not_not.mp hfits)).symm⟩

/-- Settles O3: a word that is accepted fits its format, whose decoder gives an instruction that encodes to it. -/
theorem decodedWordsEncodeBack : Obligations.DecodedWordsEncodeBack := by
  intro f w i h
  obtain ⟨v, rfl⟩ := fits_of_decode h
  show i.EncodesTo f (v.setWidth 32)
  cases f with
  | cmd => cases (decode_cmd _).symm.trans h; exact decodeCmd_encodesTo _
  | dqtPqTq => cases (decode_dqt v).symm.trans h; exact decodeDqt_encodesTo v
  | dhtTcTh => cases (decode_dht v).symm.trans h; exact decodeDht_encodesTo v
  | scanMode => cases (decode_scanMode v).symm.trans h; exact decodeScanMode_encodesTo v
  | dcSymbol => cases (decode_dcSymbol v).symm.trans h; exact decodeDcSymbol_encodesTo v
  | acSymbol => cases (decode_acSymbol v).symm.trans h; exact decodeAcSymbol_encodesTo v
  | dcSuccBit => cases (decode_dcSuccBit v).symm.trans h; exact (rawBit_encodesTo v).1
  | acSuccBit => cases (decode_acSuccBit v).symm.trans h; exact (rawBit_encodesTo v).2
  | marker => exact decodeMarker_encodesTo v i (decode_marker_ok.mp h)
  | colorDispatch => cases (decode_color v).symm.trans h; exact decodeColor_encodesTo v

/-! The encoding of a well-formed instruction decodes to it. -/

/-- Settles O2: each format's decoder, on the fields that the encoding of one of its rows has. -/
theorem encodedInstructionsDecodeToThemselves : Obligations.EncodedInstructionsDecodeToThemselves := by
  intro i h
  have hrange : ∀ {a b : Prop} [Decidable a] [Decidable b], (decide a && decide b) = true → a ∧ b := by simp
  cases i with
  | illegalCmdLow op =>
    obtain ⟨hlo, hhi⟩ := hrange h
    have hw : 8#32 ≤ op.setWidth 32 ∧ op.setWidth 32 < 16#32 := by bv_omega
    refine (decode_cmd _).trans (congrArg Except.ok ?_)
    exact (decodeCmd_illegal hw.1).trans ((if_pos hw.2).trans (congrArg Instr.illegalCmdLow (setWidth_back (by decide) op)))
  | illegalCmdOther w =>
    have h := of_decide_eq_true h
    exact (decode_cmd w).trans (by rw [decodeCmd_illegal (by bv_omega), if_neg (by bv_omega)])
  | dqtGroup8 tq | dqtGroup16 tq => exact (decode_dqt _).trans (by rw [decodeDqt_nibbles]; rfl)
  | dqtReserved2 pq tq =>
    obtain ⟨hlo, hhi⟩ := hrange h
    exact (decode_dqt _).trans (by rw [decodeDqt_nibbles, if_neg (by bv_omega), if_neg (by bv_omega), if_pos hhi])
  | dqtReserved4 pq tq =>
    obtain ⟨hlo, hhi⟩ := hrange h
    exact (decode_dqt _).trans (by rw [decodeDqt_nibbles, if_neg (by bv_omega), if_neg (by bv_omega),
      if_neg (by bv_omega), if_pos hhi])
  | dqtReserved8 pq tq =>
    have h := of_decide_eq_true h
    exact (decode_dqt _).trans (by rw [decodeDqt_nibbles, if_neg (by bv_omega), if_neg (by bv_omega),
      if_neg (by bv_omega), if_neg (by bv_omega)])
  | dhtGroupDc th | dhtGroupAc th =>
    have hth : ¬ 3#4 < th.setWidth 4 := by bv_omega
    refine (decode_dht _).trans ?_
    rw [decodeDht_nibbles, if_neg (by simp [hth])]
    simp
  | dhtReserved tc th =>
    exact (decode_dht _).trans (by rw [decodeDht_nibbles, if_pos (by simpa [Instr.wf] using h)])
  | baseline ss0 ah0 => cases ss0 <;> cases ah0 <;> rfl
  | dcDiff t =>
    have ht : nibbles 0#4 t < 16#8 ∧ (nibbles 0#4 t).setWidth 4 = t := by revert t; decide
    exact (decode_dcSymbol _).trans (by rw [decodeDcSymbol_eq, if_pos ht.1, ht.2])
  | dcReserved16 t =>
    obtain ⟨hlo, hhi⟩ := hrange h
    exact (decode_dcSymbol t).trans (by rw [decodeDcSymbol_eq, if_neg (by bv_omega), if_pos hhi])
  | dcReserved32 t =>
    obtain ⟨hlo, hhi⟩ := hrange h
    exact (decode_dcSymbol t).trans (by rw [decodeDcSymbol_eq, if_neg (by bv_omega), if_neg (by bv_omega), if_pos hhi])
  | dcReserved64 t =>
    obtain ⟨hlo, hhi⟩ := hrange h
    exact (decode_dcSymbol t).trans (by rw [decodeDcSymbol_eq, if_neg (by bv_omega), if_neg (by bv_omega),
      if_neg (by bv_omega), if_pos hhi])
  | dcReserved128 t =>
    have h := of_decide_eq_true h
    exact (decode_dcSymbol t).trans (by rw [decodeDcSymbol_eq, if_neg (by bv_omega), if_neg (by bv_omega),
      if_neg (by bv_omega), if_neg (by bv_omega)])
  | acEob0 r =>
    have h := of_decide_eq_true h
    exact (decode_acSymbol _).trans (by rw [decodeAcSymbol_nibbles, if_pos rfl, if_pos h])
  | acEob8 r =>
    obtain ⟨hlo, hhi⟩ := hrange h
    exact (decode_acSymbol _).trans (by rw [decodeAcSymbol_nibbles, if_pos rfl, if_neg (by bv_omega), if_pos hhi])
  | acEob12 r =>
    obtain ⟨hlo, hhi⟩ := hrange h
    exact (decode_acSymbol _).trans (by rw [decodeAcSymbol_nibbles, if_pos rfl, if_neg (by bv_omega),
      if_neg (by bv_omega), if_pos hhi])
  | acRunSize1 r => exact (decode_acSymbol _).trans (by rw [decodeAcSymbol_nibbles]; rfl)
  | acRunSize2 r sz =>
    obtain ⟨hlo, hhi⟩ := hrange h
    exact (decode_acSymbol _).trans (by rw [decodeAcSymbol_nibbles, if_neg (by bv_omega), if_neg (by bv_omega),
      if_pos hhi])
  | acRunSize4 r sz =>
    obtain ⟨hlo, hhi⟩ := hrange h
    exact (decode_acSymbol _).trans (by rw [decodeAcSymbol_nibbles, if_neg (by bv_omega), if_neg (by bv_omega),
      if_neg (by bv_omega), if_pos hhi])
  | acRunSize8 r sz =>
    have h := of_decide_eq_true h
    exact (decode_acSymbol _).trans (by rw [decodeAcSymbol_nibbles, if_neg (by bv_omega), if_neg (by bv_omega),
      if_neg (by bv_omega), if_neg (by bv_omega)])
  | dcSuccBit b | acSuccCorrectionBit b => cases b <;> rfl
  | rst n => revert n; decide
  | app n => revert n; decide
  | colorModeOther ncomp src out => revert ncomp src out; decide
  | _ => rfl

/-- Settles O1: each word decodes by computation. -/
theorem specWordsDecodeAsListed : Obligations.SpecWordsDecodeAsListed :=
  ⟨rfl, rfl, rfl, rfl, rfl, rfl, rfl, rfl, rfl, rfl, rfl, rfl⟩

end Sys2Proof

/-! The bits that a scan's rules read (41 R142, R146): the reader's three fields decide them, and nothing else does. -/

namespace Sys2Proof.Machine

open Sys2Proof.Safety

variable {src : Nat → Option Byte} {bs : List Bool} {d e d' e' : Decoder}

/-- `d` with the reader of `e`. -/
def Decoder.withReader (d e : Decoder) : Decoder :=
  { d with cur := e.cur, bitsData := e.bitsData, bitsCount := e.bitsCount }

@[simp] theorem withReader_cur (d e : Decoder) : (d.withReader e).cur = e.cur := rfl
@[simp] theorem withReader_bitsData (d e : Decoder) : (d.withReader e).bitsData = e.bitsData := rfl
@[simp] theorem withReader_bitsCount (d e : Decoder) : (d.withReader e).bitsCount = e.bitsCount := rfl

/-- A bit is read in any decoder with the same reader. -/
theorem readBit_withReader (d : Decoder) {b : Bool} (h : readBit src e = .ok b e') :
    readBit src (d.withReader e) = .ok b (d.withReader e') := by
  simp only [readBit, withReader_cur, withReader_bitsData, withReader_bitsCount] at h ⊢
  split_ifs at h with hheld
  · cases h; exact if_pos hheld
  · refine (if_neg hheld).trans ?_
    cases hbyte : src e.cur with
    | none => rw [hbyte] at h; cases h
    | some byte =>
      simp only [hbyte] at h ⊢
      split_ifs at h with hff
      · refine (if_pos hff).trans ?_
        cases hnext : src (e.cur + 1) with
        | none => rw [hnext] at h; cases h
        | some next =>
          simp only [hnext] at h ⊢
          split_ifs at h with hstuffed
          · cases h; exact if_pos hstuffed
      · cases h; exact if_neg hff

theorem delivers_withReader (d : Decoder) : ∀ {bs : List Bool} {e : Decoder}, delivers src bs e e' →
    delivers src bs (d.withReader e) (d.withReader e')
  | [], _, h => by cases h; rfl
  | _ :: _, _, ⟨e₁, hbit, hrest⟩ => ⟨d.withReader e₁, readBit_withReader d hbit, delivers_withReader d hrest⟩

theorem sameButReader_of_delivers : ∀ {bs : List Bool} {d : Decoder}, delivers src bs d d' → SameButReader d d'
  | [], _, h => by cases h; rfl
  | _ :: _, d, ⟨d₁, hbit, hrest⟩ => by
    have h := readBit_frame src d
    rw [hbit] at h
    exact SameButReader.trans h (sameButReader_of_delivers hrest)

/-- Bits are delivered alike to a decoder changed in anything but its reader. -/
theorem delivers_update {g : Decoder → Decoder} (hg : ∀ d e : Decoder, g (d.withReader e) = (g d).withReader e)
    (h : delivers src bs d d') : delivers src bs (g d) (g d') := by
  have hd : d.withReader d = d := rfl
  have hd' : d.withReader d' = d' := (sameButReader_of_delivers h).symm
  have := delivers_withReader (g d) h
  rwa [← hg, ← hg, hd, hd'] at this

theorem receiveFrom_of_delivers : ∀ {bs : List Bool} {d : Decoder} (v : Nat), delivers src bs d d' →
    receiveFrom src bs.length v d = .ok (bs.foldl (fun v b => 2 * v + b.toNat) v) d'
  | [], _, _, h => by cases h; rfl
  | _ :: _, _, v, ⟨d₁, hbit, hrest⟩ => by
    simp only [List.length_cons, receiveFrom, hbit, Res.andThen_ok, List.foldl_cons]
    exact receiveFrom_of_delivers _ hrest

/-- Receive(n) answers the number that the delivered bits write (41 R146). -/
theorem receive_of_delivers {n : Nat} (hn : bs.length = n) (h : delivers src bs d d') :
    receive src n d = .ok (bitsValue bs) d' := hn ▸ receiveFrom_of_delivers 0 h

/-- ReceiveExtend(n) answers their signed value (42 R169). -/
theorem receiveExtend_of_delivers {n : Nat} (hn : bs.length = n) (h : delivers src bs d d') :
    receiveExtend src n d = .ok (fieldValue bs) d' := by
  subst hn
  unfold receiveExtend
  rw [receive_of_delivers rfl h]
  rfl

end Sys2Proof.Machine

/-! Rows below the command level, run by themselves on an open scan's block (logs 3 and 10). -/

namespace Sys2Proof.Machine

open Sys2Proof.Safety

variable {s : State} {rule : Decoder → Res Unit} {d : Decoder} {c : AbortCause}

theorem scanOpen_iff : scanOpen s ↔ (s.frameValid && !s.built) = true := by simp [scanOpen]

theorem runRule_ok (ho : scanOpen s) (h : rule s.dec = .ok () d) : runRule s rule = .next { s with dec := d } := by
  unfold runRule
  rw [if_pos (scanOpen_iff.mp ho), h]

theorem runRule_raise {e : Exit} (ho : scanOpen s) (h : rule s.dec = .raise e d) :
    runRule s rule = endScanBy s e d := by
  unfold runRule
  rw [if_pos (scanOpen_iff.mp ho), h]

theorem runRule_abort (ho : scanOpen s) (h : rule s.dec = .raise (.abort c) d) :
    runRule s rule = .next (aborted c { s with dec := d }) := runRule_raise ho h

theorem runRule_congr {rule' : Decoder → Res Unit} (h : rule s.dec = rule' s.dec) :
    runRule s rule = runRule s rule' := by
  unfold runRule; rw [h]

/-- A DC symbol's row runs its rule with the mode's shift: 0 in BASELINE, AL in DC_FIRST (44 R227, R228). -/
theorem runDc_eq {rule : Nat → Decoder → Res Unit} {sh : Nat} (hb : blockHere s.dec = true)
    (hm : (s.dec.mode = some .baseline ∧ sh = 0) ∨ (s.dec.mode = some .dcFirst ∧ sh = s.dec.al)) :
    runDc s rule = runRule s (rule sh) := by
  refine runRule_congr ?_
  rcases hm with ⟨hm, rfl⟩ | ⟨hm, rfl⟩ <;> simp only [hm, onBlock_of_here hb]

/-- The mode that reads AC symbols in each of the three readings. -/
def AcKind.mode : AcKind → ScanMode
  | .baseline => .baseline
  | .first => .acFirst
  | .succ => .acSucc

theorem runAc_eq {rule : AcKind → Decoder → Res Unit} (a : AcKind) (hb : blockHere s.dec = true)
    (hm : s.dec.mode = some a.mode) : runAc s rule = runRule s (rule a) := by
  refine runRule_congr ?_
  cases a <;> simp only [hm, AcKind.mode, onBlock_of_here hb]

/-- A mode's row runs its routine (44 R213). -/
theorem runMode_eq {m : ScanMode} (hb : blockHere s.dec = true) :
    runMode m s = runRule s fun d => blockRoutine s.params.refineMode s.streamByte m { d with mode := some m } :=
  runRule_congr (onBlock_of_here hb)

end Sys2Proof.Machine

/-! The symbols of a block, run by themselves (30 R91 to R94, 44 R227 to R231): what each leaves in the decoder. -/

namespace Sys2Proof.Machine

open Sys2Proof.Safety

variable {s : State} {d d' : Decoder} {c : Comp} {bs : List Bool} {i : Instr} {r sz : BitVec 4}

/-! Writing the block. -/

theorem modifyComp_modifyComp (j : Nat) (f g : Comp → Comp) (d : Decoder) :
    modifyComp j g (modifyComp j f d) = modifyComp j (g ∘ f) d := by
  cases h : d.frame with
  | none => simp [modifyComp, h]
  | some fr => simp [modifyComp, h, List.modify_modify_eq]

theorem modifyCur_modifyCur (f g : Comp → Comp) (d : Decoder) :
    modifyCur g (modifyCur f d) = modifyCur (g ∘ f) d := by
  unfold modifyCur
  have h := curScanComp_modifyCur f d
  unfold modifyCur at h
  rw [h]
  cases curScanComp d with
  | none => rfl
  | some sc => exact modifyComp_modifyComp sc.comp f g d

/-- A change of the block's component that keeps its record, and every coefficient but `n` of the block, is a change
of that coefficient only. -/
theorem onlyCoef_modifyCur {n : Nat} {g : Comp → Comp} (hrecord : ∀ c, (g c).outline = c.outline)
    (hcoef : ∀ c row col m, curComp d = some c → coefKey c row col m ≠ coefKey c d.blkRow d.blkCol n →
      (g c).coef row col m = c.coef row col m) (hn : n < 64) : onlyCoef n d (modifyCur g d) := by
  refine ⟨congrArg Decoder.frame (outline_modifyCur hrecord d), fun m hm => ?_,
    fun j hj => frameComp_modifyCur_other hj, fun c c' row col m hc hc' hcol hm hblk hne => ?_⟩
  · have hblk : (modifyCur g d).blkRow = d.blkRow ∧ (modifyCur g d).blkCol = d.blkCol := by
      rw [modifyCur_frame]; exact ⟨rfl, rfl⟩
    unfold blkGet
    rw [curComp_modifyCur, hblk.1, hblk.2]
    cases hc : curComp d with
    | none => rfl
    | some c => exact hcoef c _ _ m hc (by unfold coefKey; omega)
  · rw [curComp_modifyCur, hc] at hc'
    cases hc'
    refine hcoef c row col m hc fun hkey => hne ?_
    obtain ⟨hrow, hcol', -⟩ := coefKey_inj hcol hblk hm hn hkey
    rw [hrow, hcol']

theorem coef_setCoef_other {row col m row' col' n : Nat} (v : Coef)
    (h : coefKey c row col m ≠ coefKey c row' col' n) : (c.setCoef row' col' n v).coef row col m = c.coef row col m :=
  cellGet_cellPut_other 0#32 h v c.coefs

theorem onlyCoef_blkSet {n : Nat} (v : Coef) (hn : n < 64) (d : Decoder) : onlyCoef n d (blkSet n v d) :=
  onlyCoef_modifyCur (fun _ => rfl) (fun _ _ _ _ _ h => coef_setCoef_other v h) hn

theorem onlyCoef_blkSet_setCurPred {n : Nat} (v p : Coef) (hn : n < 64) (d : Decoder) :
    onlyCoef n d (blkSet n v (setCurPred p d)) := by
  have hblk : (setCurPred p d).blkRow = d.blkRow ∧ (setCurPred p d).blkCol = d.blkCol := by
    rw [setCurPred_frame]; exact ⟨rfl, rfl⟩
  unfold blkSet
  rw [hblk.1, hblk.2]
  unfold setCurPred
  rw [modifyCur_modifyCur]
  exact onlyCoef_modifyCur (fun _ => rfl) (fun c _ _ _ _ h => coef_setCoef_other (c := { c with pred := p }) v h) hn

/-- Two decoders at the same block of the same frame. -/
def SameBlock (d d' : Decoder) : Prop :=
  d'.frame = d.frame ∧ d'.scomps = d.scomps ∧ d'.blkComp = d.blkComp ∧ d'.blkRow = d.blkRow ∧ d'.blkCol = d.blkCol

theorem SameButReader.sameBlock (h : SameButReader d d') : SameBlock d d' := by
  rw [h]; exact ⟨rfl, rfl, rfl, rfl, rfl⟩

theorem SameBlock.frameComp (h : SameBlock d d') (j : Nat) : frameComp d' j = frameComp d j := by
  unfold Machine.frameComp; rw [h.1]

theorem SameBlock.curScanComp (h : SameBlock d d') : curScanComp d' = curScanComp d := by
  obtain ⟨-, hscomps, hcomp, -, -⟩ := h
  unfold Machine.curScanComp; rw [hscomps, hcomp]

theorem SameBlock.curComp (h : SameBlock d d') : curComp d' = curComp d := by
  unfold Machine.curComp
  rw [h.curScanComp]
  cases Machine.curScanComp d with
  | none => rfl
  | some sc => exact h.frameComp sc.comp

theorem SameBlock.blkGet (h : SameBlock d d') (n : Nat) : blkGet n d' = blkGet n d := by
  unfold Machine.blkGet
  obtain ⟨-, -, -, hrow, hcol⟩ := id h
  rw [h.curComp, hrow, hcol]

theorem SameBlock.curPred (h : SameBlock d d') : curPred d' = curPred d := by
  unfold Machine.curPred; rw [h.curComp]

theorem SameBlock.onlyCoef {n : Nat} {e : Decoder} (h : SameBlock d d') (ho : onlyCoef n d' e) : onlyCoef n d e := by
  obtain ⟨hrecord, hblock, hother, hrest⟩ := ho
  obtain ⟨hframe, -, -, hrow, hcol⟩ := id h
  rw [hframe] at hrecord
  rw [h.curScanComp] at hother
  rw [h.curComp, hrow, hcol] at hrest
  exact ⟨hrecord, fun m hm => (hblock m hm).trans (h.blkGet m), fun j hj => (hother j hj).trans (h.frameComp j), hrest⟩

/-- The block's component, with its coefficient memory in canonical form. -/
theorem curComp_of_blockHere (hi : frameInv s) (hb : blockHere s.dec = true) :
    ∃ c, curComp s.dec = some c ∧ Store.rising c.coefs := by
  obtain ⟨c, hc, -⟩ := (blockHere_iff s.dec).mp hb
  refine ⟨c, hc, ?_⟩
  unfold curComp at hc
  split at hc
  · exact (Decoder.frameOk.coefsInside hi.2.1 _ c hc).1.1
  · cases hc

/-! DC symbols and refinement bits. -/

theorem dcCategory_of_delivers {src : Nat → Option Byte} {t : Nat} (sh : Nat) (hn : bs.length = t)
    (h : delivers src bs d d') : dcCategory src sh t d =
      .ok () (blkSet 0 (curPred d' + (fieldValue bs <<< sh)) (setCurPred (curPred d' + (fieldValue bs <<< sh)) d')) := by
  unfold dcCategory
  rw [receiveExtend_of_delivers hn h]
  rfl

theorem runDc_badCategory (ho : scanOpen s) (hb : blockHere s.dec = true)
    (hm : s.dec.mode = some .baseline ∨ s.dec.mode = some .dcFirst) :
    runDc s (fun _ => dcBadCategory) = .next (aborted .badDcCategory s) := by
  have hrule := runRule_abort (s := s) (rule := dcBadCategory) ho rfl
  rcases hm with hm | hm
  · exact (runDc_eq hb (.inl ⟨hm, rfl⟩)).trans hrule
  · exact (runDc_eq hb (.inr ⟨hm, rfl⟩)).trans hrule

theorem exec_dcDiff {t : BitVec 4} {sh : Nat} (hb : blockHere s.dec = true)
    (hm : (s.dec.mode = some .baseline ∧ sh = 0) ∨ (s.dec.mode = some .dcFirst ∧ sh = s.dec.al)) :
    exec (.dcDiff t) s = runRule s (dcCategory s.streamByte sh t.toNat) :=
  runDc_eq (rule := fun sh => dcCategory s.streamByte sh t.toNat) hb hm

/-- Settles O35: a DC category's bits are received, and their value added to the predictor. -/
theorem dcSymbolsUpdateThePredictor : Obligations.DcSymbolsUpdateThePredictor := by
  refine ⟨fun s t bs d' sh hi ho hb hm hlength hbits => ?_, fun s b ho hb hm => ?_⟩
  · obtain ⟨c, hc, hrising⟩ := curComp_of_blockHere hi hb
    have hsame := (sameButReader_of_delivers hbits).sameBlock
    have hc' := hsame.curComp.trans hc
    refine ⟨_, (exec_dcDiff hb hm).trans (runRule_ok ho (dcCategory_of_delivers sh hlength hbits)), ?_, ?_, ?_, ?_⟩
    · rw [curPred_blkSet, curPred_setCurPred hc', hsame.curPred]
    · have hpred : curComp (setCurPred (curPred d' + (fieldValue bs <<< sh)) d') = some _ :=
        (curComp_modifyCur _ _).trans (congrArg _ hc')
      rw [curPred_blkSet, curPred_setCurPred hc', blkGet_blkSet hpred hrising, if_pos rfl]
    · exact hsame.onlyCoef (onlyCoef_blkSet_setCurPred _ _ (by decide) d')
    · rw [blkSet_frame, setCurPred_frame]
  · have hrow := runDc_badCategory ho hb hm
    exact ⟨hrow, hrow, hrow, hrow⟩

/-- A refinement bit on an existing block (44 R229). -/
theorem dcRefineBit_spec (b : Bool) (hc : curComp d = some c) (hrising : Store.rising c.coefs) :
    blkGet 0 (dcRefineBit b d) = blkGet 0 d ||| ((BitVec.ofBool b).setWidth 32 <<< d.al) ∧
    onlyCoef 0 d (dcRefineBit b d) ∧ curPred (dcRefineBit b d) = curPred d ∧
    dcRefineBit b d = { d with frame := (dcRefineBit b d).frame } :=
  ⟨(blkGet_blkSet hc hrising 0 0 _).trans (if_pos rfl), onlyCoef_blkSet _ (by decide) d, curPred_blkSet _ _ _,
    blkSet_frame _ _ _⟩

theorem exec_dcSuccBit (b : Bool) (hb : blockHere s.dec = true) :
    exec (.dcSuccBit b) s = runRule s fun d => .ok () (dcRefineBit b d) := runRule_congr (onBlock_of_here hb)

theorem dcSuccBlock_of_delivers {src : Nat → Option Byte} {b : Bool} (h : delivers src [b] d d') :
    dcSuccBlock src d = .ok () (dcRefineBit b d') := by
  obtain ⟨d₁, hbit, rfl⟩ := h
  unfold dcSuccBlock
  rw [hbit]
  rfl

/-- Settles O39: one raw bit is read and ORed into coefficient 0; the bit's row does the same with the bit given. -/
theorem dcRefinementOrsOneBit : Obligations.DcRefinementOrsOneBit := by
  refine ⟨fun s b hi ho hb => ?_, fun s b d' hi ho hb hbits => ?_⟩
  · obtain ⟨c, hc, hrising⟩ := curComp_of_blockHere hi hb
    exact ⟨_, (exec_dcSuccBit b hb).trans (runRule_ok (rule := fun d => .ok () (dcRefineBit b d)) ho rfl),
      dcRefineBit_spec b hc hrising⟩
  · obtain ⟨c, hc, hrising⟩ := curComp_of_blockHere hi hb
    have hsame := (sameButReader_of_delivers hbits).sameBlock
    have hal : d'.al = s.dec.al := by rw [sameButReader_of_delivers hbits]
    obtain ⟨hcoef, honly, hpred, hframe⟩ :=
      dcRefineBit_spec (d := { d' with mode := some .dcSucc }) b (hsame.curComp.trans hc) hrising
    refine ⟨_, (runMode_eq hb).trans (runRule_ok ho (dcSuccBlock_of_delivers (delivers_update
      (g := fun d => { d with mode := some .dcSucc }) (fun _ _ => rfl) hbits))), ?_, ?_, ?_, hframe⟩
    · rw [hcoef, ← hal]
      exact congrArg (· ||| _) (hsame.blkGet 0)
    · exact hsame.onlyCoef honly
    · exact hpred.trans hsame.curPred

/-! AC symbols. -/

/-- The row of an AC symbol of size 0 with a run below 15 (30 R92). -/
theorem exec_acEob (hi : i = .acEob0 r ∨ i = .acEob8 r ∨ i = .acEob12 r ∨ (i = .acEob14 ∧ r = 14#4)) :
    exec i s = runAc s fun a => acEob s.streamByte a r.toNat := by
  rcases hi with rfl | rfl | rfl | ⟨rfl, rfl⟩ <;> rfl

/-- The row of an AC symbol of a size above 0. -/
theorem exec_acRunSize
    (hi : (i = .acRunSize1 r ∧ sz = 1#4) ∨ i = .acRunSize2 r sz ∨ i = .acRunSize4 r sz ∨ i = .acRunSize8 r sz) :
    exec i s = runAc s fun a => acRunSize s.streamByte a r.toNat sz.toNat := by
  rcases hi with ⟨rfl, rfl⟩ | rfl | rfl | rfl <;> rfl

/-- EOBr with its bits delivered (44 R230): the run of bands that ends here. -/
theorem acEob_first_of_delivers {src : Nat → Option Byte} {n : Nat} (hn : bs.length = n) (h : delivers src bs d d') :
    acEob src .first n d = .ok () { d' with eobrun := bitsValue bs + 2 ^ n - 1, k := d.se + 1 } := by
  unfold acEob
  simp only [receive_of_delivers hn h]
  rfl

/-- The same in AC_SUCC (44 R231), where the block's own band is counted later. -/
theorem acEob_succ_of_delivers {src : Nat → Option Byte} {n : Nat} (hn : bs.length = n) (h : delivers src bs d d') :
    acEob src .succ n d = .ok () { d' with r := n, eobrun := bitsValue bs + 2 ^ n, acState := .eobRun } := by
  unfold acEob
  simp only [receive_of_delivers hn (delivers_update (g := fun d => { d with r := n }) (fun _ _ => rfl) h)]
  rfl

/-- Settles O36: ZRL moves on or starts a run of 16 zeros; EOB and EOBr end the block or start a run of bands. -/
theorem acRunsWithoutAValue : Obligations.AcRunsWithoutAValue := by
  intro s ho hb
  refine ⟨?_, fun hm => ?_, fun i r hi => ⟨fun hm => ?_, fun bs d' hlength hbits => ⟨fun hm => ?_, fun hm => ?_⟩⟩⟩
  · rintro (hm | hm)
    · exact (runAc_eq .baseline hb hm).trans (runRule_ok ho rfl)
    · exact (runAc_eq .first hb hm).trans (runRule_ok ho rfl)
  · exact (runAc_eq .succ hb hm).trans (runRule_ok ho rfl)
  all_goals rw [exec_acEob hi]
  · exact (runAc_eq .baseline hb hm).trans (runRule_ok ho rfl)
  · exact (runAc_eq .first hb hm).trans (runRule_ok ho (acEob_first_of_delivers hlength hbits))
  · exact (runAc_eq .succ hb hm).trans (runRule_ok ho (acEob_succ_of_delivers hlength hbits))

/-- The rule that RUN/SIZE runs in BASELINE and AC_FIRST (44 R227, R230). -/
theorem exec_acRunSize_place {limit sh : Nat} (hb : blockHere s.dec = true)
    (hi : (i = .acRunSize1 r ∧ sz = 1#4) ∨ i = .acRunSize2 r sz ∨ i = .acRunSize4 r sz ∨ i = .acRunSize8 r sz)
    (hm : (s.dec.mode = some .baseline ∧ limit = 63 ∧ sh = 0) ∨
      (s.dec.mode = some .acFirst ∧ limit = s.dec.se ∧ sh = s.dec.al)) :
    exec i s = runRule s (acPlace s.streamByte limit sh r.toNat sz.toNat) := by
  rw [exec_acRunSize hi]
  rcases hm with ⟨hm, rfl, rfl⟩ | ⟨hm, rfl, rfl⟩
  · exact (runAc_eq .baseline hb hm).trans rfl
  · exact (runAc_eq .first hb hm).trans (runRule_congr rfl)

/-- RUN/SIZE within the block or band: the value goes to position k + r. -/
theorem acPlace_of_delivers {src : Nat → Option Byte} {limit run size n : Nat} (sh : Nat) (hlimit : d.k + run ≤ limit)
    (hz : zigzag (d.k + run) = some n) (hsize : bs.length = size) (h : delivers src bs d d') :
    acPlace src limit sh run size d =
      .ok () { blkSet n (fieldValue bs <<< sh) { d' with k := d.k + run } with k := d.k + run + 1 } := by
  have hk : d'.k = d.k := by rw [sameButReader_of_delivers h]
  have h' := delivers_update (g := fun d => { d with k := d.k + run }) (fun _ _ => rfl) h
  unfold acPlace
  simp only [if_neg (Nat.not_lt.mpr hlimit), receiveExtend_of_delivers hsize h', Res.andThen_ok, placeAt, withPosition,
    hk, hz]

theorem acPlace_past {src : Nat → Option Byte} {limit run size : Nat} (sh : Nat) (h : limit < d.k + run) :
    acPlace src limit sh run size d = .raise (.abort .coefRange) { d with k := d.k + run } := if_pos h

/-- Settles O37: the run passes the last position, or the value is received and placed. -/
theorem acRunSizePlacesItsValue : Obligations.AcRunSizePlacesItsValue := by
  intro s i r sz limit sh hi ho hb hrow hm
  have hexec := exec_acRunSize_place hb hrow hm
  refine ⟨fun hlimit n bs d' hz hsize hbits => ?_, fun hpast => ?_⟩
  · obtain ⟨c, hc, hrising⟩ := curComp_of_blockHere hi hb
    have hsame : SameBlock s.dec { d' with k := s.dec.k + r.toNat } := (sameButReader_of_delivers hbits).sameBlock
    have hn := (zigzag_lt hz).2
    refine ⟨_, hexec.trans (runRule_ok ho (acPlace_of_delivers sh hlimit hz hsize hbits)), ?_, ?_, rfl, ?_, ?_⟩
    · exact (blkGet_blkSet (hsame.curComp.trans hc) hrising n n _).trans (if_pos rfl)
    · exact hsame.onlyCoef (onlyCoef_blkSet _ hn _)
    · exact (curPred_blkSet _ _ _).trans hsame.curPred
    · rw [blkSet_frame]
  · exact hexec.trans (runRule_abort ho (acPlace_past sh hpast))

/-- RUN/SIZE of size 1 in AC_SUCC (44 R231): its bit is the sign of the pending value. -/
theorem acPend_of_delivers {src : Nat → Option Byte} {b : Bool} (run : Nat) (h : delivers src [b] d d') :
    acPend src run 1 d = .ok () { d' with
      r := run, acNext := if b then 1#32 else -1#32, acState := if run = 0 then .setValue else .skipRun } := by
  have hvalue : fieldValue [b] = if b then 1#32 else -1#32 := by cases b <;> decide
  have h' := delivers_update (g := fun d => { d with r := run }) (fun _ _ => rfl) h
  unfold acPend
  rw [if_neg (by decide), receiveExtend_of_delivers (n := 1) rfl h', hvalue]
  rfl

/-- Settles O38: a size of 1 reads the sign of the pending value, and any other size aborts. -/
theorem acRunSizeRefinementPends : Obligations.AcRunSizeRefinementPends := by
  intro s r ho hb hm
  have hexec : ∀ {i sz}, (i = .acRunSize1 r ∧ sz = 1#4) ∨ i = .acRunSize2 r sz ∨ i = .acRunSize4 r sz ∨
      i = .acRunSize8 r sz → exec i s = runRule s (acPend s.streamByte r.toNat sz.toNat) :=
    fun hi => (exec_acRunSize hi).trans (runAc_eq .succ hb hm)
  refine ⟨fun b d' hbits => ?_, fun i sz hsz hi => ?_⟩
  · have hzero : r.toNat = 0 ↔ r = 0#4 := BitVec.toNat_inj (y := 0#4)
    simp only [← hzero]
    exact (hexec (.inl ⟨rfl, rfl⟩)).trans (runRule_ok ho (acPend_of_delivers r.toNat hbits))
  · have hne : sz.toNat ≠ 1 := by bv_omega
    exact (hexec (.inr hi)).trans (runRule_abort ho (if_pos hne))

/-! Markers. -/

/-- Settles O44: every marker row ends the scan by its own value, and RSTn does with no MCU left. -/
theorem markersEndTheScan : Obligations.MarkersEndTheScan := by
  intro s ho
  have hends : ∀ m, markerEndsScan m s = .next (scanEnded m s) := fun m => by
    rw [markerEndsScan_eq, if_pos (scanOpen_iff.mp ho)]; rfl
  have happ : ∀ n : BitVec 4, 0xFFE0#16 ||| n.setWidth 16 = 0xFFE#12 ++ n := by decide
  have hrst : ∀ n : BitVec 3, 0xFFD0#16 ||| n.setWidth 16 = 0x1FFA#13 ++ n := by decide
  refine ⟨hends _, hends _, hends _, hends _, hends _, hends _, hends _, hends _, hends _,
    fun n => happ n ▸ hends _, fun n hdone => ?_,
    runRule_ok (rule := fun d => (deliver 0xFF#8 d).andThen fun _ d' => .ok () d') ho rfl⟩
  rw [← hrst]
  refine (restartMarker_eq _ s).trans ?_
  rw [if_pos (scanOpen_iff.mp ho), if_neg (Nat.not_lt.mpr hdone)]
  rfl

end Sys2Proof.Machine

/-! How a block's rules can end early (44 R223, R224): on a block whose tables are bound, and whose band lies within the
64 positions, by an abort with its cause or by a marker, and in no other way. -/

namespace Sys2Proof.Machine

/-- What holds of the exit by which a rule ended early. -/
def Res.Exits {α : Type} (p : Exit → Prop) (x : Res α) : Prop :=
  match x with
  | .ok _ _ => True
  | .raise e _ => p e

theorem Res.Exits.andThen {α β : Type} {p : Exit → Prop} {x : Res α} {f : α → Decoder → Res β} (hx : x.Exits p)
    (hf : ∀ a d, x = .ok a d → (f a d).Exits p) : (x.andThen f).Exits p := by
  cases x with
  | ok a d => exact hf a d rfl
  | raise e d => exact hx

theorem Res.Exits.imp {α : Type} {p q : Exit → Prop} {x : Res α} (hx : x.Exits p) (h : ∀ e, p e → q e) :
    x.Exits q := by
  cases x with
  | ok a d => trivial
  | raise e d => exact h e hx

theorem Res.All.of_ok {α : Type} {p : Decoder → Prop} {x : Res α} {a : α} {d : Decoder} (hx : x.All p)
    (h : x = .ok a d) : p d := by subst h; exact hx

/-- An abort with a cause, or a marker. -/
def Exit.EndsBlock (e : Exit) : Prop :=
  (∃ c, e = .abort c ∧ c ≠ .none) ∨ ∃ m, e = .marker m ∧ 0xFF00#16 < m

theorem endsBlock_abort {c : AbortCause} (h : c ≠ .none) : Exit.EndsBlock (.abort c) := .inl ⟨c, rfl, h⟩

variable {src : Nat → Option Byte} {d : Decoder}

/-! The reader. -/

/-- FF xx with xx ≠ 00 is above FF00. -/
theorem marker_above {n : Byte} (h : ¬ n = 0#8) : 0xFF00#16 < bigEndian 0xFF#8 n := by revert n; decide

theorem readBit_exits (src : Nat → Option Byte) (d : Decoder) : (readBit src d).Exits Exit.EndsBlock := by
  unfold readBit deliver
  split
  · trivial
  · split
    · exact endsBlock_abort (by decide)
    · split
      · split
        · exact endsBlock_abort (by decide)
        · split
          · trivial
          · rename_i hff _ n _ hn
            exact .inr ⟨_, rfl, hff ▸ marker_above hn⟩
      · trivial

theorem receiveFrom_exits (src : Nat → Option Byte) (n : Nat) :
    ∀ v d, (receiveFrom src n v d).Exits Exit.EndsBlock := by
  induction n with
  | zero => exact fun _ _ => trivial
  | succ n ih => exact fun v d => (readBit_exits src d).andThen fun b d' _ => ih _ d'

theorem receive_exits (src : Nat → Option Byte) (n : Nat) (d : Decoder) :
    (receive src n d).Exits Exit.EndsBlock := receiveFrom_exits src n 0 d

theorem receiveExtend_exits (src : Nat → Option Byte) (n : Nat) (d : Decoder) :
    (receiveExtend src n d).Exits Exit.EndsBlock := (receive_exits src n d).andThen fun _ _ _ => trivial

theorem huffmanFrom_exits (src : Nat → Option Byte) (t : HuffTable) (fuel : Nat) :
    ∀ len code d, (huffmanFrom src t fuel len code d).Exits Exit.EndsBlock := by
  induction fuel with
  | zero => exact fun _ _ _ => endsBlock_abort (by decide)
  | succ n ih =>
    refine fun len code d => (readBit_exits src d).andThen fun b d' _ => ?_
    dsimp only
    split
    · trivial
    · split
      · exact ih _ _ d'
      · exact endsBlock_abort (by decide)

theorem decodeHuffman_exits (src : Nat → Option Byte) (t : HuffTable) (d : Decoder) :
    (decodeHuffman src t d).Exits Exit.EndsBlock := huffmanFrom_exits src t 16 0 0 d

/-! Symbols and bits. -/

theorem withPosition_exits {p : Exit → Prop} {k : Nat} (hk : k < 64) {f : Nat → Res Unit} (hf : ∀ n, (f n).Exits p) :
    (withPosition k d f).Exits p := by
  obtain ⟨n, hn⟩ := zigzag_isSome hk
  unfold withPosition
  rw [hn]
  exact hf n

theorem placeAt_exits (v : Coef) (hk : d.k < 64) : (placeAt v d).Exits Exit.EndsBlock :=
  withPosition_exits hk fun _ => trivial

theorem refineHere_exits (m : RefineMode) (b : Bool) (hk : d.k < 64) : (refineHere m b d).Exits Exit.EndsBlock :=
  withPosition_exits hk fun _ => trivial

theorem dcSymbol_exits (src : Nat → Option Byte) (sh : Nat) (t : Byte) (d : Decoder) :
    (dcSymbol src sh t d).Exits Exit.EndsBlock := by
  unfold dcSymbol
  split
  · exact endsBlock_abort (by decide)
  · exact (receiveExtend_exits src _ d).andThen fun _ _ _ => trivial

theorem acEob_exits (src : Nat → Option Byte) (a : AcKind) (r : Nat) (d : Decoder) :
    (acEob src a r d).Exits Exit.EndsBlock := by
  cases a with
  | baseline => trivial
  | first | succ => exact (receive_exits src r _).andThen fun _ _ _ => trivial

theorem acPlace_exits (src : Nat → Option Byte) {limit : Nat} (hlimit : limit < 64) (sh r sz : Nat) (d : Decoder) :
    (acPlace src limit sh r sz d).Exits Exit.EndsBlock := by
  unfold acPlace
  dsimp only
  split
  · exact endsBlock_abort (by decide)
  · rename_i hk
    refine (receiveExtend_exits src sz _).andThen fun v d' hv => placeAt_exits _ ?_
    have hsame := (receiveExtend_frame src sz { d with k := d.k + r }).of_ok hv
    rw [hsame]
    dsimp only at hk ⊢
    omega

theorem acPend_exits (src : Nat → Option Byte) (r sz : Nat) (d : Decoder) :
    (acPend src r sz d).Exits Exit.EndsBlock := by
  unfold acPend
  split
  · exact endsBlock_abort (by decide)
  · exact (receiveExtend_exits src 1 _).andThen fun _ _ _ => trivial

theorem acSymbol_exits (src : Nat → Option Byte) (a : AcKind) (rs : Byte) (hlimit : acLimit a d < 64) :
    (acSymbol src a rs d).Exits Exit.EndsBlock := by
  unfold acSymbol
  dsimp only
  split
  · split
    · exact acEob_exits src a _ d
    · cases a <;> trivial
  · cases a with
    | baseline | first => exact acPlace_exits src hlimit _ _ _ d
    | succ => exact acPend_exits src _ _ d

/-! The routines. -/

/-- Decoding a block keeps the outline, so what a rule leaves has the same SE. -/
theorem acLimit_of_outline {a : AcKind} {d d' : Decoder} (h : d'.outline = d.outline) : acLimit a d' = acLimit a d := by
  have hse : d'.se = d.se := by show d'.outline.se = d.outline.se; rw [h]
  cases a <;> simp [acLimit, hse]

theorem acLoop_exits (src : Nat → Option Byte) (a : AcKind) (ac : HuffTable) (fuel : Nat) :
    ∀ d, acLimit a d < 64 → (acLoop src a ac fuel d).Exits Exit.EndsBlock := by
  induction fuel with
  | zero => exact fun _ _ => trivial
  | succ n ih =>
    intro d hlimit
    unfold acLoop
    split
    · trivial
    · refine (decodeHuffman_exits src ac d).andThen fun rs d' hrs => ?_
      have hd' := (decodeHuffman_keeps (stable_outline d.outline) src ac rfl).of_ok hrs
      have hlimit' : acLimit a d' < 64 := (acLimit_of_outline hd').trans_lt hlimit
      refine (acSymbol_exits src a rs hlimit').andThen fun _ d'' hsymbol => ih d'' ?_
      have hd'' := (acSymbol_keeps (stable_outline d.outline) src a rs hd').of_ok hsymbol
      exact (acLimit_of_outline hd'').trans_lt hlimit

theorem acVisit_exits (m : RefineMode) (src : Nat → Option Byte) (hk : d.k < 64) :
    (acVisit m src d).Exits Exit.EndsBlock := by
  refine withPosition_exits hk fun n => ?_
  split
  · refine (readBit_exits src d).andThen fun b d' hb => refineHere_exits m b ?_
    have hsame := (readBit_frame src d).of_ok hb
    rw [hsame]
    exact hk
  · split
    · trivial
    · trivial
    · exact placeAt_exits _ hk
    · trivial
    · trivial

/-- Reading a symbol in AC_SUCC leaves the position. -/
theorem acSuccSymbol_k (src : Nat → Option Byte) (ac : HuffTable) (d : Decoder) :
    (acSuccSymbol src ac d).All fun d' => d'.k = d.k := by
  have hreader : ∀ {e e' : Decoder}, e.k = d.k → SameButReader e e' → e'.k = d.k := fun h h' => by rw [h']; exact h
  unfold acSuccSymbol
  split
  · refine ((decodeHuffman_frame src ac d).imp fun _ => hreader rfl).andThen fun rs e he => ?_
    unfold acSymbol
    dsimp only
    split
    · split
      · refine Res.All.andThen ((receive_frame src _ _).imp fun _ => hreader he) fun _ _ h => ?_
        exact h
      · exact he
    · simp only [acRunSize, acPend]
      split
      · exact he
      · refine Res.All.andThen ((receiveExtend_frame src 1 _).imp fun _ => hreader he) fun _ _ h => ?_
        exact h
  · rfl

theorem acSuccSymbol_exits (src : Nat → Option Byte) (ac : HuffTable) (hse : d.se < 64) :
    (acSuccSymbol src ac d).Exits Exit.EndsBlock := by
  unfold acSuccSymbol
  split
  · refine (decodeHuffman_exits src ac d).andThen fun rs d' hrs => acSymbol_exits src .succ rs ?_
    have hd' := (decodeHuffman_keeps (stable_outline d.outline) src ac rfl).of_ok hrs
    exact (acLimit_of_outline (a := .succ) hd').trans_lt hse
  · trivial

theorem acSuccSymbol_keeps {p : Decoder → Prop} (hp : Stable p) (src : Nat → Option Byte) (ac : HuffTable) (h : p d) :
    (acSuccSymbol src ac d).All p := by
  unfold acSuccSymbol
  split
  · exact (decodeHuffman_keeps hp src ac h).andThen fun rs _ h' => acSymbol_keeps hp src .succ rs h'
  · exact h

theorem acSuccLoop_exits (m : RefineMode) (src : Nat → Option Byte) (ac : HuffTable) (fuel : Nat) :
    ∀ d, d.se < 64 → (acSuccLoop m src ac fuel d).Exits Exit.EndsBlock := by
  induction fuel with
  | zero => exact fun _ _ => trivial
  | succ n ih =>
    intro d hse
    unfold acSuccLoop
    split
    · trivial
    · rename_i hk
      refine (acSuccSymbol_exits src ac hse).andThen fun _ d' hsymbol => ?_
      have hd' := (acSuccSymbol_keeps (stable_outline d.outline) src ac rfl).of_ok hsymbol
      have hk' : d'.k = d.k := (acSuccSymbol_k src ac d).of_ok hsymbol
      refine (acVisit_exits m src (by omega)).andThen fun _ d'' hvisit => ih d'' ?_
      have hd'' := (acVisit_keeps (stable_outline d.outline) m src hd').of_ok hvisit
      exact (acLimit_of_outline (a := .succ) hd'').trans_lt hse

theorem acSuccEnd_exits (d : Decoder) : (acSuccEnd d).Exits Exit.EndsBlock := by
  unfold acSuccEnd
  split
  · trivial
  · trivial
  all_goals exact endsBlock_abort (by decide)

/-- The block's tables are bound as its mode needs them, and its band lies within the 64 positions. -/
def BlockReady (mode : ScanMode) (d : Decoder) : Prop :=
  (needsDc mode = true → (curDc d).isSome) ∧ (needsAc mode = true → (curAc d).isSome) ∧
    (hasBand mode = true → d.se < 64)

theorem withTable_exits {p : Exit → Prop} {t : Option HuffTable} {f : HuffTable → Res Unit} (ht : t.isSome)
    (hf : ∀ table, (f table).Exits p) : (withTable t d f).Exits p := by
  obtain ⟨table, rfl⟩ := Option.isSome_iff_exists.mp ht
  exact hf table

/-- Every block-decode routine, on a block that is ready for it. -/
theorem blockRoutine_exits (m : RefineMode) (src : Nat → Option Byte) {mode : ScanMode} (h : BlockReady mode d) :
    (blockRoutine m src mode d).Exits Exit.EndsBlock := by
  obtain ⟨hdc, hac, hband⟩ := h
  cases mode with
  | baseline =>
    refine withTable_exits (hdc rfl) fun dc => withTable_exits (hac rfl) fun ac => ?_
    exact (decodeHuffman_exits src dc d).andThen fun t d' _ => (dcSymbol_exits src 0 t d').andThen
      fun _ d'' _ => acLoop_exits src .baseline ac 64 _ (show 63 < 64 by decide)
  | dcFirst =>
    refine withTable_exits (hdc rfl) fun dc => ?_
    exact (decodeHuffman_exits src dc d).andThen fun t d' _ => dcSymbol_exits src d'.al t d'
  | dcSucc => exact (readBit_exits src d).andThen fun _ _ _ => trivial
  | acFirst =>
    refine withTable_exits (hac rfl) fun ac => ?_
    split
    · trivial
    · exact acLoop_exits src .first ac 64 _ (hband rfl)
  | acSucc =>
    refine withTable_exits (hac rfl) fun ac => ?_
    exact (acSuccLoop_exits m src ac 64 { d with k := d.ss, r := 0 } (hband rfl)).andThen fun _ d' _ => acSuccEnd_exits d'

end Sys2Proof.Machine

/-! The blocks of a scan (44 R218, R219): every block of an MCU that is left to decode is a block of the component that
its scan component names. -/

namespace Sys2Proof.Machine

open Sys2Proof.Safety

variable {f : Frame} {c : Comp} {scomps : List ScanComp} {m : Nat} {b : Nat × Nat × Nat}

/-! Padded counts (43 R194, R195). -/

/-- Blocks along a side, counted over the frame's samples, fit in its MCUs. -/
theorem ceilDiv_blocks_le_padded {size factor maxFactor : Nat} (hmax : 1 ≤ maxFactor) :
    ceilDiv (ceilDiv size 8 * factor) maxFactor ≤ ceilDiv size (8 * maxFactor) * factor := by
  have hsize : size ≤ ceilDiv size (8 * maxFactor) * (8 * maxFactor) := (ceilDiv_le_iff (by omega)).mp (Nat.le_refl _)
  have hblocks : ceilDiv size 8 ≤ ceilDiv size (8 * maxFactor) * maxFactor :=
    (ceilDiv_le_iff (by decide)).mpr (by linarith)
  refine (ceilDiv_le_iff hmax).mpr ?_
  calc ceilDiv size 8 * factor ≤ ceilDiv size (8 * maxFactor) * maxFactor * factor := Nat.mul_le_mul_right _ hblocks
    _ = ceilDiv size (8 * maxFactor) * factor * maxFactor := by ring

theorem frameWf_blocks_le_padded (h : frameWf f) (hc : c ∈ f.comps) : c.bpl ≤ c.bplm ∧ c.bpc ≤ c.bpcm := by
  obtain ⟨⟨hmaxH, -⟩, hmaxV, -⟩ := frameWf_maxima h
  obtain ⟨-, -, -, -, -, hline, hcolumn, -, hcomps, -⟩ := h
  obtain ⟨-, -, -, -, -, hbpl, hbpc, hbplm, hbpcm⟩ := hcomps c hc
  rw [hbpl, hbpc, hbplm, hbpcm, hline, hcolumn]
  exact ⟨ceilDiv_blocks_le_padded hmaxH, ceilDiv_blocks_le_padded hmaxV⟩

/-! An MCU's blocks. -/

/-- Block `b` names a component of the frame and lies within it. -/
def BlockInside (f : Frame) (scomps : List ScanComp) (b : Nat × Nat × Nat) : Prop :=
  ∃ sc c, scomps[b.1]? = some sc ∧ f.comps[sc.comp]? = some c ∧ b.2.1 < c.bpcm ∧ b.2.2 < c.bplm

/-- A factor's rows or columns of the MCU at `i`, of `n` MCUs along the side. -/
theorem mcu_block_lt {i n factor x : Nat} (hi : i < n) (hx : x < factor) : i * factor + x < n * factor :=
  calc i * factor + x < (i + 1) * factor := by rw [Nat.succ_mul]; omega
    _ ≤ n * factor := Nat.mul_le_mul_right _ hi

theorem mem_compBlocks {j mr mc : Nat} (h : b ∈ compBlocks c j mr mc) :
    b.1 = j ∧ ∃ y x, y < c.v ∧ x < c.h ∧ b.2.1 = mr * c.v + y ∧ b.2.2 = mc * c.h + x := by
  simp only [compBlocks, List.mem_flatMap, List.mem_range, List.mem_map] at h
  obtain ⟨y, hy, x, hx, rfl⟩ := h
  exact ⟨rfl, y, x, hy, hx, rfl, rfl⟩

theorem mem_interleavedBlocks {mr mc : Nat} : ∀ {scs : List ScanComp} {j : Nat},
    b ∈ interleavedBlocks f mr mc j scs →
    ∃ n sc c, b.1 = j + n ∧ scs[n]? = some sc ∧ f.comps[sc.comp]? = some c ∧ b ∈ compBlocks c b.1 mr mc
  | sc :: rest, j, h => by
    rw [interleavedBlocks, List.mem_append] at h
    rcases h with h | h
    · cases hc : f.comps[sc.comp]? with
      | none => rw [hc] at h; cases h
      | some c =>
        rw [hc] at h
        have hj := (mem_compBlocks h).1
        exact ⟨0, sc, c, hj, rfl, hc, hj.symm ▸ h⟩
    · obtain ⟨n, sc', c, hn, hsc, hc, hb⟩ := mem_interleavedBlocks h
      exact ⟨n + 1, sc', c, by omega, hsc, hc, hb⟩

/-- 44 R218: the blocks of a scan of one component. -/
theorem mcuBlocks_single {sc : ScanComp} (hc : f.comps[sc.comp]? = some c) (m : Nat) :
    mcuBlocks f [sc] m = [(0, m / c.bpl, m % c.bpl)] := by simp only [mcuBlocks, hc]

theorem mcusExpected_single {sc : ScanComp} (hc : f.comps[sc.comp]? = some c) :
    mcusExpected f [sc] = c.bpl * c.bpc := by simp only [mcusExpected, hc]

theorem blockInside_of_mem_single {sc : ScanComp} (hf : frameWf f) (hm : m < mcusExpected f [sc])
    (hb : b ∈ mcuBlocks f [sc] m) : BlockInside f [sc] b := by
  cases hc : f.comps[sc.comp]? with
  | none => simp [mcuBlocks, hc] at hb
  | some c =>
    rw [mcusExpected_single hc] at hm
    rw [mcuBlocks_single hc, List.mem_singleton] at hb
    subst hb
    obtain ⟨hbpl, hbpc⟩ := frameWf_blocks_le_padded hf (List.mem_of_getElem? hc)
    have hpos : 0 < c.bpl := Nat.pos_of_mul_pos_right (Nat.zero_lt_of_lt hm)
    have hrow : m / c.bpl < c.bpc := Nat.div_lt_of_lt_mul hm
    exact ⟨sc, c, rfl, hc, hrow.trans_le hbpc, (Nat.mod_lt m hpos).trans_le hbpl⟩

theorem blockInside_of_mem_interleaved (hf : frameWf f) (hm : m < f.mcusPerLine * f.mcusPerColumn)
    (hb : b ∈ interleavedBlocks f (m / f.mcusPerLine) (m % f.mcusPerLine) 0 scomps) : BlockInside f scomps b := by
  obtain ⟨n, sc, c, hn, hsc, hc, hb⟩ := mem_interleavedBlocks hb
  obtain ⟨-, y, x, hy, hx, hrow, hcol⟩ := mem_compBlocks hb
  obtain ⟨-, -, -, -, -, -, -, -, hcomps, -⟩ := hf
  obtain ⟨-, -, -, -, -, -, -, hbplm, hbpcm⟩ := hcomps c (List.mem_of_getElem? hc)
  have hpos : 0 < f.mcusPerLine := Nat.pos_of_mul_pos_right (Nat.zero_lt_of_lt hm)
  refine ⟨sc, c, by rw [hn, Nat.zero_add]; exact hsc, hc, ?_, ?_⟩
  · rw [hrow, hbpcm]
    exact mcu_block_lt (Nat.div_lt_of_lt_mul hm) hy
  · rw [hcol, hbplm]
    exact mcu_block_lt (Nat.mod_lt m hpos) hx

/-- Every block of an MCU of the scan exists. -/
theorem blockInside_of_mem_mcuBlocks (hf : frameWf f) (hm : m < mcusExpected f scomps) (hb : b ∈ mcuBlocks f scomps m) :
    BlockInside f scomps b := by
  match scomps with
  | [] => exact blockInside_of_mem_interleaved hf hm hb
  | [sc] => exact blockInside_of_mem_single hf hm hb
  | _ :: _ :: _ => exact blockInside_of_mem_interleaved hf hm hb

/-! The order of a scan's blocks depends on the frame's record only. -/

theorem outline_comps_getElem? (f : Frame) (j : Nat) : f.outline.comps[j]? = (f.comps[j]?).map Comp.outline :=
  List.getElem?_map

theorem interleavedBlocks_outline (f : Frame) (mr mc : Nat) : ∀ (j : Nat) (scs : List ScanComp),
    interleavedBlocks f.outline mr mc j scs = interleavedBlocks f mr mc j scs
  | _, [] => rfl
  | j, sc :: rest => by
    rw [interleavedBlocks, interleavedBlocks, interleavedBlocks_outline f mr mc (j + 1) rest, outline_comps_getElem?]
    cases f.comps[sc.comp]? <;> rfl

theorem mcuBlocks_outline (f : Frame) (scomps : List ScanComp) (m : Nat) :
    mcuBlocks f.outline scomps m = mcuBlocks f scomps m := by
  match scomps with
  | [] => rfl
  | [sc] =>
    simp only [mcuBlocks, outline_comps_getElem?]
    cases f.comps[sc.comp]? <;> rfl
  | _ :: _ :: _ => exact interleavedBlocks_outline f _ _ 0 _

theorem mcuBlocks_of_outline {f' : Frame} (h : f'.outline = f.outline) (scomps : List ScanComp) (m : Nat) :
    mcuBlocks f' scomps m = mcuBlocks f scomps m := by
  rw [← mcuBlocks_outline, h, mcuBlocks_outline]

end Sys2Proof.Machine

/-! An accepted scan (44 R210 to R217): what its checks say, what it binds, and what stays so until its end. -/

namespace Sys2Proof.Machine

open Sys2Proof.Safety

variable {s : State} {f : Frame} {d : Decoder} {b : Nat × Nat × Nat}

/-! The checks and the binding (44 R211, R212). -/

/-- What DECODE_SCAN's checks say where none fails. -/
theorem checkScan_none (h : checkScan s f = none) :
    s.built = false ∧ (1 ≤ cfgNs s ∧ cfgNs s ≤ 4) ∧ (∀ w ∈ scanCompCfgs s, scanCompOk s f w = true) ∧
    (hasBand (scanModeOf s f) = true → cfgSe s < 64) := by
  unfold checkScan at h
  split at h
  · cases h
  rename_i hbuilt
  split at h
  · cases h
  split at h
  · cases h
  split at h
  · cases h
  rename_i hcomps
  split at h
  · cases h
  rename_i hband
  refine ⟨by simpa using hbuilt, by omega, by simpa using hcomps, fun hb => ?_⟩
  simp only [hb, Bool.true_and, Bool.or_eq_true, decide_eq_true_eq, not_or] at hband
  omega

theorem getElem?_scanCompCfgs (s : State) : ∀ j : Fin 4, j.val < cfgNs s →
    (scanCompCfgs s)[j.val]? = some (fourGet s.scanComp j) := by
  intro j hj
  rw [scanCompCfgs, List.getElem?_take_of_lt hj]
  match j with
  | 0 | 1 | 2 | 3 => rfl

theorem mem_scanCompCfgs {w : Word} (h : w ∈ scanCompCfgs s) :
    ∃ j : Fin 4, j.val < cfgNs s ∧ w = fourGet s.scanComp j := by
  obtain ⟨n, hn⟩ := List.mem_iff_getElem?.mp h
  have hlt := (List.getElem?_eq_some_iff.mp hn).1
  simp only [scanCompCfgs, fourToList, List.length_take, List.length_cons, List.length_nil] at hlt
  have hj := getElem?_scanCompCfgs s ⟨n, by omega⟩ (by dsimp only; omega)
  exact ⟨_, by dsimp only; omega, Option.some.inj (hn.symm.trans hj)⟩

/-- The component that a SCAN_COMP register names. -/
theorem bindComp_comp {w : Word} (h : scanCompOk s f w = true) :
    ∃ c, f.comps[(bindComp s f w).comp]? = some c ∧ c.cid = scanCid w := by
  simp only [scanCompOk, Bool.and_eq_true, List.any_eq_true] at h
  obtain ⟨⟨⟨⟨hany, -⟩, -⟩, -⟩, -⟩ := h
  have hlt := List.findIdx_lt_length.mpr hany
  refine ⟨f.comps[_]'hlt, List.getElem?_eq_getElem hlt, ?_⟩
  simpa using List.findIdx_getElem (w := hlt)

/-- The tables its mode needs are there. -/
theorem bindComp_tables {w : Word} (h : scanCompOk s f w = true) :
    (needsDc (scanModeOf s f) = true → (bindComp s f w).dc.isSome) ∧
    (needsAc (scanModeOf s f) = true → (bindComp s f w).ac.isSome) := by
  simp only [scanCompOk, Bool.and_eq_true, Bool.or_eq_true, Bool.not_eq_true'] at h
  obtain ⟨⟨-, hdc⟩, hac⟩ := h
  exact ⟨fun hm => by simpa [hm, slotFull, bindComp] using hdc, fun hm => by simpa [hm, slotFull, bindComp] using hac⟩

theorem mem_bindComps {sc : ScanComp} (hc : checkScan s f = none) (h : sc ∈ bindComps s f) :
    ∃ j : Fin 4, j.val < cfgNs s ∧ sc = bindComp s f (fourGet s.scanComp j) ∧
      scanCompOk s f (fourGet s.scanComp j) = true := by
  obtain ⟨-, -, hok, -⟩ := checkScan_none hc
  obtain ⟨w, hw, rfl⟩ := List.mem_map.mp h
  obtain ⟨j, hj, rfl⟩ := mem_scanCompCfgs hw
  exact ⟨j, hj, rfl, hok _ hw⟩

/-! What stays so during the scan. -/

/-- The routine of the scan's mode. -/
def scanRoutine (s : State) (f : Frame) : Decoder → Res Unit :=
  blockRoutine s.params.refineMode s.streamByte (scanModeOf s f)

/-- The decoder is one of the scan: it has the outline that the scan began with. -/
def InScan (s : State) (f : Frame) (d : Decoder) : Prop := d.scanOutline = (startScan s f).dec.scanOutline

theorem scanStable_inScan (s : State) (f : Frame) : ScanStable (scanRoutine s f) (InScan s f) :=
  scanStable_outline _ _ _ _

theorem inScan_startScan (s : State) (f : Frame) : InScan s f (startScan s f).dec := rfl

theorem InScan.scomps (h : InScan s f d) : d.scomps = bindComps s f := congrArg Decoder.scomps h

theorem InScan.mode (h : InScan s f d) : d.mode = some (scanModeOf s f) := congrArg Decoder.mode h

theorem InScan.se (h : InScan s f d) : d.se = cfgSe s := congrArg Decoder.se h

theorem InScan.mcuExpected (h : InScan s f d) : d.mcuExpected = mcusExpected f (bindComps s f) :=
  congrArg Decoder.mcuExpected h

theorem InScan.interval (h : InScan s f d) : d.interval = restartEvery s (mcusExpected f (bindComps s f)) :=
  congrArg Decoder.interval h

theorem InScan.frame (hf : s.dec.frame = some f) (h : InScan s f d) :
    ∃ f', d.frame = some f' ∧ f'.outline = f.outline := by
  have hrecord : d.frame.map Frame.outline = some f.outline :=
    (congrArg Decoder.frame h).trans (congrArg (Option.map Frame.outline) hf)
  exact Option.map_eq_some_iff.mp hrecord

/-- A block of the scan exists, and is ready for the scan's routine. -/
theorem InScan.blockReady (hf : s.dec.frame = some f) (hc : checkScan s f = none) (h : InScan s f d)
    (hb : BlockInside f (bindComps s f) b) :
    blockHere (selectBlock b d) = true ∧ BlockReady (scanModeOf s f) (selectBlock b d) := by
  obtain ⟨sc, c, hsc, hcomp, hrow, hcol⟩ := hb
  have hcur : curScanComp (selectBlock b d) = some sc := by
    show d.scomps[b.1]? = some sc
    rw [h.scomps]; exact hsc
  constructor
  · obtain ⟨f', hf', houtline⟩ := h.frame hf
    have hmap : (f'.comps[sc.comp]?).map Comp.outline = some c.outline := by
      rw [← outline_comps_getElem?, houtline, outline_comps_getElem?, hcomp]; rfl
    obtain ⟨c', hc', hc'o⟩ := Option.map_eq_some_iff.mp hmap
    have hsize : c'.outline.bpcm = c.outline.bpcm ∧ c'.outline.bplm = c.outline.bplm := by rw [hc'o]; exact ⟨rfl, rfl⟩
    refine (blockHere_iff _).mpr ⟨c', ?_, hrow.trans_eq hsize.1.symm, hcol.trans_eq hsize.2.symm⟩
    have hframe : (selectBlock b d).frame = some f' := hf'
    simp only [curComp, hcur, frameComp, hframe]
    exact hc'
  · obtain ⟨j, -, rfl, hok⟩ := mem_bindComps hc (List.mem_of_getElem? hsc)
    obtain ⟨hdc, hac⟩ := bindComp_tables hok
    obtain ⟨-, -, -, hband⟩ := checkScan_none hc
    refine ⟨fun hm => ?_, fun hm => ?_, fun hm => ?_⟩
    · simp only [curDc, hcur]; exact hdc hm
    · simp only [curAc, hcur]; exact hac hm
    · show d.se < 64
      rw [h.se]; exact hband hm

/-! How an accepted scan ends. -/

/-- A scan's early end: as a block's rules end, or by the error of an interval's end (44 R220). -/
def Exit.EndsScan (e : Exit) : Prop :=
  e.EndsBlock ∨ ∃ c pos, e = .interval c pos ∧ (c = .streamEos ∨ c = .markerNotFound)

theorem decodeBlocks_exits (hf : s.dec.frame = some f) (hc : checkScan s f = none) :
    ∀ (blocks : List (Nat × Nat × Nat)) (d : Decoder), (∀ b ∈ blocks, BlockInside f (bindComps s f) b) →
      InScan s f d → (decodeBlocks (scanRoutine s f) blocks d).Exits Exit.EndsBlock
  | [], _, _, _ => trivial
  | b :: rest, d, hb, hd => by
    obtain ⟨hhere, hready⟩ := hd.blockReady hf hc (hb b (by simp))
    unfold decodeBlocks
    rw [onBlock_of_here hhere]
    refine (blockRoutine_exits _ _ hready).andThen fun _ d' hd' => ?_
    refine decodeBlocks_exits hf hc rest d' (fun b' hb' => hb b' (by simp [hb'])) ?_
    exact ((scanStable_inScan s f).block hhere hd).of_ok hd'

theorem decodeMcu_exits (hf : s.dec.frame = some f) (hc : checkScan s f = none) (hwf : frameWf f) (hd : InScan s f d)
    (hmore : d.mcuCount < d.mcuExpected) : (decodeMcu (scanRoutine s f) d).Exits Exit.EndsBlock := by
  obtain ⟨f', hf', houtline⟩ := hd.frame hf
  unfold decodeMcu
  simp only [hf', mcuBlocks_of_outline houtline, hd.scomps]
  rw [hd.mcuExpected] at hmore
  exact decodeBlocks_exits hf hc _ d (fun b hb => blockInside_of_mem_mcuBlocks hwf hmore hb) hd

theorem mcuLoop_exits (hf : s.dec.frame = some f) (hc : checkScan s f = none) (hwf : frameWf f) :
    ∀ (n : Nat) (d : Decoder), InScan s f d → (mcuLoop (scanRoutine s f) n d).Exits Exit.EndsBlock
  | 0, _, _ => trivial
  | n + 1, d, hd => by
    unfold mcuLoop
    split
    · rename_i hmore
      refine (decodeMcu_exits hf hc hwf hd hmore).andThen fun _ d' hd' => mcuLoop_exits hf hc hwf n _ ?_
      exact (scanStable_inScan s f).count ((decodeMcu_keeps (scanStable_inScan s f) hd).of_ok hd')
    · trivial

theorem endOfIntervalMarker_exits (src : Nat → Option Byte) (d : Decoder) :
    (endOfIntervalMarker src d).Exits Exit.EndsScan := by
  unfold endOfIntervalMarker
  repeat' split
  · exact .inr ⟨_, _, rfl, .inl rfl⟩
  · exact .inr ⟨_, _, rfl, .inl rfl⟩
  · exact .inr ⟨_, _, rfl, .inr rfl⟩
  · trivial

theorem oneInterval_exits (hf : s.dec.frame = some f) (hc : checkScan s f = none) (hwf : frameWf f)
    (hd : InScan s f d) : (oneInterval (scanRoutine s f) s.streamByte d).Exits Exit.EndsScan :=
  ((mcuLoop_exits hf hc hwf _ _ ((scanStable_inScan s f).start hd)).imp fun _ => .inl).andThen
    fun _ _ _ => endOfIntervalMarker_exits _ _

theorem intervals_exits (hf : s.dec.frame = some f) (hc : checkScan s f = none) (hwf : frameWf f) :
    ∀ (n : Nat) (d : Decoder), InScan s f d →
      (intervals (scanRoutine s f) s.streamByte n d).Exits Exit.EndsScan
  | 0, _, hd => oneInterval_exits hf hc hwf hd
  | n + 1, d, hd => by
    refine (oneInterval_exits hf hc hwf hd).andThen fun m d' hd' => ?_
    split
    · exact intervals_exits hf hc hwf n d' ((oneInterval_keeps (scanStable_inScan s f) _ hd).of_ok hd')
    · trivial

/-- The marker at an interval's end is above FF00 (44 R220). -/
theorem endOfIntervalMarker_ok {src : Nat → Option Byte} {m : Half} {d' : Decoder}
    (h : endOfIntervalMarker src d = .ok m d') : 0xFF00#16 < m := by
  unfold endOfIntervalMarker at h
  split at h
  · cases h
  · split at h
    · cases h
    · split at h
      · cases h
      · rename_i hm; cases h; bv_omega

theorem intervals_ok {routine : Decoder → Res Unit} {src : Nat → Option Byte} {m : Half} :
    ∀ {n : Nat} {d d' : Decoder}, intervals routine src n d = .ok m d' → 0xFF00#16 < m
  | 0, _, _, h => by
    obtain ⟨_, _, -, hm⟩ := Res.andThen_eq_ok h
    exact endOfIntervalMarker_ok hm
  | n + 1, _, _, h => by
    obtain ⟨m', d₁, hone, hrest⟩ := Res.andThen_eq_ok h
    split at hrest
    · exact intervals_ok hrest
    · obtain ⟨_, _, -, hm⟩ := Res.andThen_eq_ok hone
      cases hrest
      exact endOfIntervalMarker_ok hm

end Sys2Proof.Machine

/-! The three ends of an accepted scan (44 R221 to R226), and what holds at each of them. -/

namespace Sys2Proof.Machine

open Sys2Proof.Safety

variable {s t : State} {f : Frame} {d d' : Decoder} {i : Instr} {m : ScanMode}

/-! MCU_COUNT (44 R226). -/

/-- A decoder without what decoding an MCU changes in it. -/
def Decoder.mcuOutline (d : Decoder) : Decoder := { d.outline with blkComp := 0, blkRow := 0, blkCol := 0 }

theorem mcuOutline_of_outline (h : d'.outline = d.outline) : d'.mcuOutline = d.mcuOutline := by
  unfold Decoder.mcuOutline; rw [h]

theorem mcuCount_of_mcuOutline (h : d'.mcuOutline = d.mcuOutline) :
    d'.mcuCount = d.mcuCount ∧ d'.mcuExpected = d.mcuExpected := by
  have hcount : d'.mcuOutline.mcuCount = d.mcuOutline.mcuCount ∧
      d'.mcuOutline.mcuExpected = d.mcuOutline.mcuExpected := by rw [h]; exact ⟨rfl, rfl⟩
  exact hcount

theorem decodeBlocks_mcuOutline (s : State) (f : Frame) : ∀ (blocks : List (Nat × Nat × Nat)) (d : Decoder),
    (decodeBlocks (scanRoutine s f) blocks d).All fun d' => d'.mcuOutline = d.mcuOutline
  | [], _ => rfl
  | b :: rest, d => by
    have hselect : (selectBlock b d).mcuOutline = d.mcuOutline := rfl
    refine Res.All.andThen ?_ fun _ d' h => (decodeBlocks_mcuOutline s f rest d').imp fun _ h' => h'.trans h
    unfold onBlock
    split
    · exact (blockRoutine_keeps (stable_outline (selectBlock b d).outline) _ _ _ rfl).imp
        fun _ h => (mcuOutline_of_outline h).trans hselect
    · exact hselect

theorem decodeMcu_mcuOutline (s : State) (f : Frame) (d : Decoder) :
    (decodeMcu (scanRoutine s f) d).All fun d' => d'.mcuOutline = d.mcuOutline := by
  unfold decodeMcu
  split
  · exact decodeBlocks_mcuOutline s f _ d
  · rfl

/-- No more MCUs are counted than the scan expects. -/
def CountBounded (d : Decoder) : Prop := d.mcuCount ≤ d.mcuExpected

theorem mcuLoop_countBounded (s : State) (f : Frame) : ∀ (n : Nat) (d : Decoder), CountBounded d →
    (mcuLoop (scanRoutine s f) n d).All CountBounded
  | 0, _, h => h
  | n + 1, d, h => by
    unfold mcuLoop
    split
    · rename_i hmore
      cases hmcu : decodeMcu (scanRoutine s f) d with
      | ok u d' =>
        obtain ⟨hcount, hexpected⟩ := mcuCount_of_mcuOutline ((decodeMcu_mcuOutline s f d).of_ok hmcu)
        refine mcuLoop_countBounded s f n _ ?_
        show d'.mcuCount + 1 ≤ d'.mcuExpected
        omega
      | raise e d' =>
        have hall := decodeMcu_mcuOutline s f d
        rw [hmcu] at hall
        obtain ⟨hcount, hexpected⟩ := mcuCount_of_mcuOutline hall
        show d'.mcuCount ≤ d'.mcuExpected
        omega
    · exact h

theorem oneInterval_countBounded (s : State) (f : Frame) (h : CountBounded d) :
    (oneInterval (scanRoutine s f) s.streamByte d).All CountBounded := by
  have hstart : CountBounded (startInterval d) := by
    have houtline := outline_startInterval d
    have hcount : (startInterval d).outline.mcuCount ≤ (startInterval d).outline.mcuExpected := by
      rw [houtline]; exact h
    exact hcount
  refine (mcuLoop_countBounded s f _ _ hstart).andThen fun _ d' h' => ?_
  unfold endOfIntervalMarker
  repeat' split
  all_goals exact h'

theorem intervals_countBounded (s : State) (f : Frame) : ∀ (n : Nat) (d : Decoder), CountBounded d →
    (intervals (scanRoutine s f) s.streamByte n d).All CountBounded
  | 0, _, h => oneInterval_countBounded s f h
  | n + 1, d, h => (oneInterval_countBounded s f h).andThen fun m d' h' => by
    split
    · exact intervals_countBounded s f n d' h'
    · exact h'

/-! The components a scan does not name (44 R217, R225, R234). -/

theorem mem_scomps_of_curScanComp {sc : ScanComp} (h : curScanComp d = some sc) : sc ∈ d.scomps :=
  List.mem_of_getElem? h

theorem frameComp_resetPreds {j : Nat} : ∀ (scs : List ScanComp) (d : Decoder), (∀ sc ∈ scs, sc.comp ≠ j) →
    frameComp (resetPreds scs d) j = frameComp d j
  | [], _, _ => rfl
  | sc :: rest, d, h => by
    refine (frameComp_resetPreds rest _ fun sc' hsc' => h sc' (by simp [hsc'])).trans ?_
    rw [frameComp_modifyComp, if_neg (h sc (by simp))]

/-- Component `j` is `x` and no scan component of the list names it. -/
def CompKept (scs : List ScanComp) (j : Nat) (x : Option Comp) (d : Decoder) : Prop :=
  d.scomps = scs ∧ frameComp d j = x

theorem stable_compKept {scs : List ScanComp} {j : Nat} (hj : ∀ sc ∈ scs, sc.comp ≠ j) (x : Option Comp) :
    Stable (CompKept scs j x) := by
  have hmodify : ∀ {d : Decoder} (g : Comp → Comp), CompKept scs j x d → CompKept scs j x (modifyCur g d) := by
    intro d g ⟨hscs, hx⟩
    refine ⟨by rw [modifyCur_frame]; exact hscs, (frameComp_modifyCur_other fun sc hsc => hj sc ?_).trans hx⟩
    exact hscs ▸ mem_scomps_of_curScanComp hsc
  exact {
    locals := fun h hd => by rw [h]; exact hd
    coef := fun _ _ hd => hmodify _ hd
    pred := fun _ hd => hmodify _ hd }

theorem scanStable_compKept (s : State) (f : Frame) {scs : List ScanComp} {j : Nat} (hj : ∀ sc ∈ scs, sc.comp ≠ j)
    (x : Option Comp) : ScanStable (scanRoutine s f) (CompKept scs j x) where
  block _ hd := blockRoutine_keeps (stable_compKept hj x) _ _ _ hd
  select _ hd := hd
  count hd := hd
  align hd := hd
  start := fun {d} hd => by
    have hscomps : (startInterval d).outline.scomps = d.outline.scomps := by rw [outline_startInterval]
    refine ⟨Eq.trans hscomps hd.1, ?_⟩
    exact (frameComp_resetPreds d.scomps d (hd.1.symm ▸ hj)).trans hd.2
  cursor _ hd := hd

/-- A component that no SCAN_COMP register names is no scan component's. -/
theorem bindComps_comp_ne {j : Nat} {c : Comp} (hc : checkScan s f = none) (hcomp : f.comps[j]? = some c)
    (hunnamed : ∀ n : Fin 4, n.val < cfgNs s → scanCid (fourGet s.scanComp n) ≠ c.cid) :
    ∀ sc ∈ bindComps s f, sc.comp ≠ j := by
  rintro sc hsc rfl
  obtain ⟨n, hn, rfl, hok⟩ := mem_bindComps hc hsc
  obtain ⟨c', hc', hcid⟩ := bindComp_comp hok
  rw [hcomp] at hc'
  cases hc'
  exact hunnamed n hn hcid.symm

/-! The mode (30 R97). -/

theorem toNat_beq_zero {n : Nat} (v : BitVec n) : (v.toNat == 0) = decide (v = 0#n) :=
  decide_eq_decide.mpr (BitVec.toNat_inj (y := 0#n))

theorem scanModeOf_of_scanRow (h : scanRow s f i m) : scanModeOf s f = m := by
  have hss : (cfgSs s == 0) = decide (s.scanCfg.extractLsb' 8 8 = 0#8) := toNat_beq_zero _
  have hah : (cfgAh s == 0) = decide (s.scanCfg.extractLsb' 24 4 = 0#4) := toNat_beq_zero _
  unfold scanModeOf
  rw [hss, hah]
  rcases h with ⟨hp, rfl, -⟩ | ⟨hp, ⟨hs, ha, rfl, -⟩ | ⟨hs, ha, rfl, -⟩ | ⟨hs, ha, rfl, -⟩ | ⟨hs, ha, rfl, -⟩⟩
  · rw [hp]; rfl
  all_goals rw [hp]; simp [selectMode, hs, ha]

theorem showsMode_of_mode (h : t.dec.mode = some m) : showsMode t m (modeBits (some m)) :=
  ⟨h, (scanInfoWord_fields t).1.trans (congrArg modeBits h)⟩

/-! The end. -/

/-- What the state after a scan shows, and which of the three ends it records. -/
def ScanEndShown (s t : State) : Prop :=
  t.busy = false ∧ t.done = true ∧ t.streamPos = BitVec.ofNat 32 t.dec.cur ∧
  t.eobrunReg = BitVec.ofNat 16 t.dec.eobrun ∧ t.acStateReg = t.dec.acState ∧
  ((t.errCode = s.errCode ∧ t.errPos = s.errPos ∧ t.abortCause = .none ∧
      t.scanAborted = s.scanAborted ∧ 0xFF00#16 < t.lastMarker) ∨
    (t.errCode = s.errCode ∧ t.errPos = s.errPos ∧ t.abortCause ≠ .none ∧
      t.scanAborted = true ∧ t.lastMarker = 0xFFD9#16) ∨
    ((t.errCode = .streamEos ∨ t.errCode = .markerNotFound) ∧ t.abortCause = .none ∧
      t.scanAborted = s.scanAborted ∧ t.lastMarker = s.lastMarker))

theorem scanOutcome_shown {x : Res Half} (hcause : s.abortCause = .none) (hexits : x.Exits Exit.EndsScan)
    (hok : ∀ m d, x = .ok m d → 0xFF00#16 < m) :
    ∃ t, scanOutcome s x = .next t ∧ ScanEndShown s t ∧
      ∀ q : Decoder → Prop, x.All q → (∀ d, q d → q (align d)) → q t.dec := by
  cases x with
  | ok m d =>
    exact ⟨_, rfl, ⟨rfl, rfl, rfl, rfl, rfl, .inl ⟨rfl, rfl, hcause, rfl, hok m d rfl⟩⟩, fun q hq _ => hq⟩
  | raise e d =>
    rcases hexits with (⟨c, rfl, hc⟩ | ⟨m, rfl, hm⟩) | ⟨c, pos, rfl, hc⟩
    · exact ⟨_, rfl, ⟨rfl, rfl, rfl, rfl, rfl, .inr (.inl ⟨rfl, rfl, hc, rfl, rfl⟩)⟩, fun q hq ha => ha d hq⟩
    · exact ⟨_, rfl, ⟨rfl, rfl, rfl, rfl, rfl, .inl ⟨rfl, rfl, hcause, rfl, hm⟩⟩, fun q hq _ => hq⟩
    · exact ⟨_, rfl, ⟨rfl, rfl, rfl, rfl, rfl, .inr (.inr ⟨hc, hcause, rfl, rfl⟩)⟩, fun q hq _ => hq⟩

/-- DECODE_SCAN on a frame, with its checks passed: its intervals, and their end. -/
theorem exec_decodeScan (hf : s.dec.frame = some f) (hc : checkScan s f = none) :
    exec .decodeScan s = scanOutcome (startScan s f)
      (intervals (scanRoutine s f) s.streamByte (mcusExpected f (bindComps s f)) (startScan s f).dec) := by
  show execDecodeScan s = _
  unfold execDecodeScan
  simp only [hf, hc]
  rfl

/-- An accepted scan answers, and what its rules keep holds of the decoder then. -/
theorem exec_decodeScan_answers (hf : s.dec.frame = some f) (hc : checkScan s f = none) (hwf : frameWf f) :
    ∃ t, exec .decodeScan s = .next t ∧ ScanEndShown s t ∧ CountBounded t.dec ∧
      ∀ q, ScanStable (scanRoutine s f) q → q (startScan s f).dec → q t.dec := by
  obtain ⟨t, ht, hshown, hkeeps⟩ := scanOutcome_shown (s := startScan s f) rfl
    (intervals_exits hf hc hwf (mcusExpected f (bindComps s f)) _ (inScan_startScan s f)) fun _ _ => intervals_ok
  refine ⟨t, (exec_decodeScan hf hc).trans ht, hshown, ?_, fun q hq hs => ?_⟩
  · exact hkeeps CountBounded (intervals_countBounded s f _ _ (Nat.zero_le _)) fun _ h => h
  · exact hkeeps q (intervals_keeps hq _ _ _ hs) fun _ => hq.align

end Sys2Proof.Machine

/-! A scan by its blocks (44 R210, R217 to R221): where the row of the scan's mode, run by itself at each block in turn,
has led, DECODE_SCAN has come too. -/

namespace Sys2Proof.Machine

open Sys2Proof.Safety

variable {s t : State} {f : Frame} {d d' : Decoder} {i : Instr} {m : ScanMode} {n : Nat}

/-! The mode's row. -/

/-- The state a scan's rows run in (44 R216): ABORT_CAUSE is cleared. -/
abbrev State.uncaused (s : State) : State := { s with abortCause := .none }

theorem exec_scanRow (h : scanRow s f i m) (t : State) : exec i t = runMode m t := by
  rcases h with ⟨-, rfl, _, _, rfl⟩ | ⟨-, ⟨-, -, rfl, rfl⟩ | ⟨-, -, rfl, rfl⟩ | ⟨-, -, rfl, rfl⟩ | ⟨-, -, rfl, rfl⟩⟩
  all_goals rfl

theorem busy_endScanBy {e : Exit} (h : endScanBy s e d = .next t) : t.busy = false := by
  rcases endScanBy_next h with ⟨c, -, rfl⟩ | ⟨m, -, rfl⟩ | ⟨c, -, rfl⟩ | ⟨c, pos, -, rfl⟩ <;> rfl

/-- The end of a block writes the whole decoder, so the one it ran on does not matter. -/
theorem endScanBy_dec {e : Exit} (h : e.EndsBlock) (s : State) (d₀ d : Decoder) :
    endScanBy { s with dec := d₀ } e d = endScanBy s e d := by
  rcases h with ⟨c, rfl, -⟩ | ⟨m, rfl, -⟩ <;> rfl

section Rows

variable (hf : s.dec.frame = some f) (hc : checkScan s f = none) (hrow : scanRow s f i m)
include hf hc hrow

omit hrow in
theorem scanOpen_inScan (hd : InScan s f d) : scanOpen { s.uncaused with dec := d } := by
  obtain ⟨f', hf', -⟩ := hd.frame hf
  exact ⟨Option.isSome_iff_exists.mpr ⟨f', hf'⟩, (checkScan_none hc).1⟩

omit hf hc in
/-- The row runs the scan's routine on the block. -/
theorem exec_row (hd : InScan s f d) :
    exec i { s.uncaused with dec := d } = runRule { s.uncaused with dec := d } (onBlock (scanRoutine s f)) := by
  rw [exec_scanRow hrow]
  refine runRule_congr ?_
  have hmode : { d with mode := some m } = d := by rw [← scanModeOf_of_scanRow hrow, ← hd.mode]
  show onBlock (blockRoutine s.params.refineMode s.streamByte m) { d with mode := some m } = _
  rw [hmode, ← scanModeOf_of_scanRow hrow]
  rfl

/-- It goes on with the routine's decoder, or ends the scan as the routine ended. -/
theorem exec_row_next (hd : InScan s f d) (h : exec i { s.uncaused with dec := d } = .next t) :
    (∃ d', onBlock (scanRoutine s f) d = .ok () d' ∧ t = { s.uncaused with dec := d' }) ∨
    ∃ e d', onBlock (scanRoutine s f) d = .raise e d' ∧ endScanBy { s.uncaused with dec := d } e d' = .next t := by
  rw [exec_row hrow hd] at h
  rcases runRule_cases { s.uncaused with dec := d } (onBlock (scanRoutine s f)) with
    ⟨hshut, -⟩ | ⟨-, d', hd', hnext⟩ | ⟨-, e, d', hd', hnext⟩
  · have hopen := scanOpen_iff.mp (scanOpen_inScan hf hc hd)
    rw [hopen] at hshut
    cases hshut
  · rw [hnext] at h
    cases h
    exact .inl ⟨d', hd', rfl⟩
  · exact .inr ⟨e, d', hd', hnext.symm.trans h⟩

/-- Where BUSY is still 1 after the row, the routine went on. -/
theorem onBlock_of_exec_row (hbusy : s.busy = true) (hd : InScan s f d)
    (h : exec i { s.uncaused with dec := d } = .next { s.uncaused with dec := d' }) :
    onBlock (scanRoutine s f) d = .ok () d' := by
  rcases exec_row_next hf hc hrow hd h with ⟨d₁, hd₁, ht⟩ | ⟨e, d₁, -, hend⟩
  · rw [hd₁, show d' = d₁ from congrArg State.dec ht]
  · have hidle := busy_endScanBy hend
    cases hbusy.symm.trans hidle

/-- Where BUSY is 0 after the row, the routine ended the scan. -/
theorem onBlock_of_exec_row_end (hbusy : s.busy = true) (hd : InScan s f d)
    (h : exec i { s.uncaused with dec := d } = .next t) (ht : t.busy = false) :
    ∃ e d', onBlock (scanRoutine s f) d = .raise e d' ∧ endScanBy { s.uncaused with dec := d } e d' = .next t := by
  rcases exec_row_next hf hc hrow hd h with ⟨d₁, -, rfl⟩ | hend
  · cases hbusy.symm.trans ht
  · exact hend

/-- Blocks that the row has decoded are blocks that the scan has decoded. -/
theorem decodeBlocks_of_blocksDecoded (hbusy : s.busy = true) : ∀ {blocks : List (Nat × Nat × Nat)} {d : Decoder},
    InScan s f d → blocksDecoded i s.uncaused blocks d d' →
    decodeBlocks (scanRoutine s f) blocks d = .ok () d' ∧ InScan s f d'
  | [], _, hd, h => by cases h; exact ⟨rfl, hd⟩
  | b :: rest, d, hd, ⟨d₁, hexec, hrest⟩ => by
    have hselect : InScan s f (selectBlock b d) := (scanStable_inScan s f).select b hd
    have hblock := onBlock_of_exec_row hf hc hrow hbusy hselect hexec
    obtain ⟨hhere, hroutine⟩ := onBlock_ok hblock
    have hd₁ : InScan s f d₁ := ((scanStable_inScan s f).block hhere hselect).of_ok hroutine
    obtain ⟨hdecode, hd'⟩ := decodeBlocks_of_blocksDecoded hbusy hd₁ hrest
    refine ⟨?_, hd'⟩
    unfold decodeBlocks
    rw [hblock]
    exact hdecode

omit hc hrow in
/-- The blocks of an MCU are listed alike whatever the scan has written in the frame. -/
theorem decodeMcu_inScan (hd : InScan s f d) :
    decodeMcu (scanRoutine s f) d = decodeBlocks (scanRoutine s f) (mcuBlocks f d.scomps d.mcuCount) d := by
  obtain ⟨f', hf', houtline⟩ := hd.frame hf
  unfold decodeMcu
  simp only [hf', mcuBlocks_of_outline houtline]

omit hf hc hrow in
theorem mcuLoop_done {routine : Decoder → Res Unit} (h : ¬ d.mcuCount < d.mcuExpected) (n : Nat) :
    mcuLoop routine n d = .ok () d := by
  cases n with
  | zero => rfl
  | succ n => exact if_neg h

/-- MCUs that the row has decoded are passes of the MCU loop. -/
theorem mcuLoop_of_mcusDecoded (hbusy : s.busy = true) : ∀ {n limit : Nat} {d : Decoder}, InScan s f d → n ≤ limit →
    d.mcuCount + n ≤ d.mcuExpected → mcusDecoded i s.uncaused f n d d' →
    mcuLoop (scanRoutine s f) limit d = mcuLoop (scanRoutine s f) (limit - n) d' ∧ InScan s f d' ∧
      d'.mcuCount = d.mcuCount + n
  | 0, _, _, hd, _, _, h => by cases h; exact ⟨rfl, hd, rfl⟩
  | n + 1, limit, d, hd, hlimit, hcount, ⟨d₁, hblocks, hrest⟩ => by
    obtain ⟨hdecode, hd₁⟩ := decodeBlocks_of_blocksDecoded hf hc hrow hbusy hd hblocks
    rw [← decodeMcu_inScan hf hd] at hdecode
    obtain ⟨hsame, hexpected⟩ := mcuCount_of_mcuOutline ((decodeMcu_mcuOutline s f d).of_ok hdecode)
    obtain ⟨limit, rfl⟩ : ∃ k, limit = k + 1 := ⟨limit - 1, by omega⟩
    obtain ⟨hloop, hd', hcount'⟩ := mcuLoop_of_mcusDecoded hbusy (limit := limit) ((scanStable_inScan s f).count (d := d₁) hd₁)
      (by omega) (by dsimp only; omega) (hsame ▸ hrest)
    refine ⟨?_, hd', by rw [hcount', hsame]; dsimp only; omega⟩
    rw [Nat.add_sub_add_right, ← hloop]
    refine (if_pos (by omega)).trans ?_
    rw [hdecode]
    rfl

end Rows

end Sys2Proof.Machine

/-! The intervals of a scan, and the marker at the end of each (44 R217, R220, R221). -/

namespace Sys2Proof.Machine

open Sys2Proof.Safety

variable {s t : State} {f : Frame} {d d' d₁ : Decoder} {i : Instr} {m : ScanMode} {n : Nat} {src : Nat → Option Byte}
  {hi lo : Byte} {routine : Decoder → Res Unit}

/-! The marker. -/

theorem isRst_iff (m : Half) : isRst m = true ↔ 0xFFD0#16 ≤ m ∧ m ≤ 0xFFD7#16 := by
  have hmask : isRst m = ((m >>> 3) <<< 3 == 0xFFD0#16) := congrArg (· == 0xFFD0#16) (and_highMask m 3)
  rw [hmask, beq_iff_eq]
  bv_omega

theorem endOfIntervalMarker_eq_ok (hhi : src d.cur = some hi) (hlo : src (d.cur + 1) = some lo)
    (hm : 0xFF00#16 < hi ++ lo) : endOfIntervalMarker src d = .ok (hi ++ lo) { d with cur := d.cur + 2 } := by
  unfold endOfIntervalMarker
  rw [hhi]
  simp only [hlo]
  exact if_neg (BitVec.not_le.mpr hm)

theorem endOfIntervalMarker_notFound (hhi : src d.cur = some hi) (hlo : src (d.cur + 1) = some lo)
    (hm : hi ++ lo ≤ 0xFF00#16) : endOfIntervalMarker src d = .raise (.interval .markerNotFound d.cur) d := by
  unfold endOfIntervalMarker
  rw [hhi]
  simp only [hlo]
  exact if_pos hm

theorem endOfIntervalMarker_eos (h : src d.cur = none) :
    endOfIntervalMarker src d = .raise (.interval .streamEos d.cur) d := by
  unfold endOfIntervalMarker
  rw [h]

theorem endOfIntervalMarker_half (hhi : src d.cur = some hi) (hlo : src (d.cur + 1) = none) :
    endOfIntervalMarker src d = .raise (.interval .streamEos (d.cur + 1)) d := by
  unfold endOfIntervalMarker
  rw [hhi]
  simp only [hlo]

/-- FF D0 to FF D7. -/
theorem rst_of_bytes (h : 0xD0#8 ≤ lo) (h' : lo ≤ 0xD7#8) :
    0xFF00#16 < 0xFF#8 ++ lo ∧ isRst (0xFF#8 ++ lo) = true := by
  revert lo
  decide

/-! One interval. -/

theorem intervals_of_raise {e : Exit} (h : oneInterval routine src d = .raise e d') :
    ∀ n, intervals routine src n d = .raise e d'
  | 0 => h
  | n + 1 => by unfold intervals; rw [h]; rfl

theorem intervals_of_stop {m : Half} (h : oneInterval routine src d = .ok m d')
    (hstop : ¬ (isRst m = true ∧ d'.mcuCount < d'.mcuExpected)) : ∀ n, intervals routine src n d = .ok m d'
  | 0 => h
  | n + 1 => by
    unfold intervals
    rw [h]
    exact if_neg (by simpa using hstop)

theorem intervals_of_rst {m : Half} (h : oneInterval routine src d = .ok m d') (hrst : isRst m = true)
    (hmore : d'.mcuCount < d'.mcuExpected) : intervals routine src (n + 1) d = intervals routine src n d' := by
  rw [intervals, h]
  exact if_pos (by simpa using ⟨hrst, hmore⟩)

/-- The resets keep the counts. -/
theorem counts_startInterval (d : Decoder) : (startInterval d).mcuCount = d.mcuCount ∧
    (startInterval d).mcuExpected = d.mcuExpected ∧ (startInterval d).interval = d.interval := by
  have hcounts : (startInterval d).outline.mcuCount = d.mcuCount ∧ (startInterval d).outline.mcuExpected = d.mcuExpected ∧
      (startInterval d).outline.interval = d.interval := by rw [outline_startInterval]; exact ⟨rfl, rfl, rfl⟩
  exact hcounts

theorem mcusInInterval_le (d : Decoder) : mcusInInterval d ≤ (startInterval d).interval ∧
    (CountBounded d → (startInterval d).mcuCount + mcusInInterval d ≤ (startInterval d).mcuExpected) := by
  obtain ⟨hcount, hexpected, hinterval⟩ := counts_startInterval d
  unfold mcusInInterval CountBounded
  omega

/-- An interval has an MCU while the scan has one. -/
theorem InScan.mcusInInterval_pos (h : InScan s f d) (hmore : d.mcuCount < d.mcuExpected) : 0 < mcusInInterval d := by
  have hpos : 0 < d.interval := by
    rw [h.interval, restartEvery, ← h.mcuExpected]
    split
    · omega
    · rename_i hri; bv_omega
  unfold mcusInInterval
  omega

section Rows

variable (hf : s.dec.frame = some f) (hc : checkScan s f = none) (hrow : scanRow s f i m) (hbusy : s.busy = true)
include hf hc hrow hbusy

/-- MCUs that the row has decoded since an interval began are passes of its loop. -/
theorem mcuLoop_startInterval (hd : InScan s f d) (hbound : CountBounded d) (hn : n ≤ mcusInInterval d)
    (h : mcusDecoded i s.uncaused f n (startInterval d) d₁) :
    mcuLoop (scanRoutine s f) (startInterval d).interval (startInterval d) =
      mcuLoop (scanRoutine s f) (d.interval - n) d₁ ∧ InScan s f d₁ ∧ d₁.mcuCount = d.mcuCount + n := by
  obtain ⟨hlimit, hcount⟩ := mcusInInterval_le d
  obtain ⟨hsame, -, hinterval⟩ := counts_startInterval d
  have hloop := mcuLoop_of_mcusDecoded hf hc hrow hbusy ((scanStable_inScan s f).start hd) (hn.trans hlimit)
    (by have := hcount hbound; omega) h
  rw [hsame] at hloop
  rwa [hinterval] at hloop ⊢

/-- An interval whose MCUs the row has decoded is that far its end. -/
theorem oneInterval_of_mcusDecoded (hd : InScan s f d) (hbound : CountBounded d)
    (h : mcusDecoded i s.uncaused f (mcusInInterval d) (startInterval d) d₁) :
    oneInterval (scanRoutine s f) s.streamByte d = endOfIntervalMarker s.streamByte (align d₁) ∧
      InScan s f d₁ ∧ d₁.mcuCount = d.mcuCount + mcusInInterval d := by
  obtain ⟨hloop, hd₁, hcount⟩ := mcuLoop_startInterval hf hc hrow hbusy hd hbound (Nat.le_refl _) h
  have hdone : mcuLoop (scanRoutine s f) (d.interval - mcusInInterval d) d₁ = .ok () d₁ := by
    by_cases hall : mcusInInterval d = d.interval
    · rw [hall, Nat.sub_self]; rfl
    · have hexpected : d₁.mcuExpected = d.mcuExpected := hd₁.mcuExpected.trans hd.mcuExpected.symm
      exact mcuLoop_done (by unfold mcusInInterval at hall hcount; omega) _
  refine ⟨?_, hd₁, hcount⟩
  unfold oneInterval
  dsimp only
  rw [hloop, hdone]
  rfl

/-- Intervals that the row has decoded are passes of the interval loop, whose bound still covers what is left. -/
theorem intervals_of_intervalsDecoded : ∀ {p n : Nat} {d : Decoder}, InScan s f d → CountBounded d →
    d.mcuExpected - d.mcuCount ≤ n → intervalsDecoded i s.uncaused f p d d' →
    InScan s f d' ∧ CountBounded d' ∧ ∃ n', d'.mcuExpected - d'.mcuCount ≤ n' ∧
      intervals (scanRoutine s f) s.streamByte n d = intervals (scanRoutine s f) s.streamByte n' d'
  | 0, n, _, hd, hbound, hn, h => by cases h; exact ⟨hd, hbound, n, hn, rfl⟩
  | p + 1, n, d, hd, hbound, hn, ⟨d₁, lo, hmcus, hmore, hhi, hlo, hrst, hrst', hrest⟩ => by
    obtain ⟨hone, hd₁, hcount⟩ := oneInterval_of_mcusDecoded hf hc hrow hbusy hd hbound hmcus
    have hexpected : d₁.mcuExpected = d.mcuExpected := hd₁.mcuExpected.trans hd.mcuExpected.symm
    have hpos := hd.mcusInInterval_pos (by omega)
    obtain ⟨k, rfl⟩ : ∃ k, n = k + 1 := ⟨n - 1, by omega⟩
    obtain ⟨hmarker, hisRst⟩ := rst_of_bytes hrst hrst'
    rw [endOfIntervalMarker_eq_ok (src := s.streamByte) (d := align d₁) hhi hlo hmarker] at hone
    obtain ⟨hd', hbound', n', hn', hintervals⟩ := intervals_of_intervalsDecoded (n := k)
      (d := { d₁ with bitsCount := 0, cur := d₁.cur + 2 }) hd₁ (Nat.le_of_lt hmore) (by dsimp only; omega) hrest
    exact ⟨hd', hbound', n', hn', (intervals_of_rst hone hisRst hmore).trans hintervals⟩

end Rows

end Sys2Proof.Machine

/-! DECODE_SCAN follows its rows (44 R210): it binds what the registers name, and answers as the row, or the marker, at
which the scan ends. -/

namespace Sys2Proof.Machine

open Sys2Proof.Safety

variable {s t : State} {f : Frame} {d d' d₁ d₂ d₃ : Decoder} {i : Instr} {m : ScanMode} {n p : Nat}

theorem frameWf_of_stateInv (hs : StateInv s) (hf : s.dec.frame = some f) : frameWf f := by
  obtain ⟨-, ⟨-, hframes, -⟩, -, -⟩ := hs
  exact hframes f hf

/-! What the scan binds (44 R212). -/

theorem length_bindComps (hc : checkScan s f = none) : (bindComps s f).length = cfgNs s := by
  obtain ⟨-, ⟨-, hmax⟩, -, -⟩ := checkScan_none hc
  simp only [bindComps, scanCompCfgs, fourToList, List.length_map, List.length_take, List.length_cons, List.length_nil]
  omega

theorem bindComps_getElem? (hc : checkScan s f = none) (j : Fin 4) (hj : j.val < cfgNs s) :
    ∃ sc c, (bindComps s f)[j.val]? = some sc ∧ f.comps[sc.comp]? = some c ∧
      c.cid = scanCid (fourGet s.scanComp j) ∧ sc.dc = storeGet (scanTd (fourGet s.scanComp j)) s.dcTab ∧
      sc.ac = storeGet (scanTa (fourGet s.scanComp j)) s.acTab := by
  obtain ⟨-, -, hok, -⟩ := checkScan_none hc
  have hcfg := getElem?_scanCompCfgs s j hj
  obtain ⟨c, hcomp, hcid⟩ := bindComp_comp (hok _ (List.mem_of_getElem? hcfg))
  refine ⟨bindComp s f (fourGet s.scanComp j), c, ?_, hcomp, hcid, rfl, rfl⟩
  rw [bindComps, List.getElem?_map, hcfg]
  rfl

/-! Where a block ends the scan. -/

theorem decodeBlocks_append (routine : Decoder → Res Unit) (after : List (Nat × Nat × Nat)) :
    ∀ {before : List (Nat × Nat × Nat)} {d : Decoder}, decodeBlocks routine before d = .ok () d' →
      decodeBlocks routine (before ++ after) d = decodeBlocks routine after d'
  | [], _, h => by cases h; rfl
  | b :: rest, d, h => by
    obtain ⟨_, d₁, hblock, hrest⟩ := Res.andThen_eq_ok h
    rw [List.cons_append, decodeBlocks, hblock]
    exact decodeBlocks_append routine after hrest

theorem decodeBlocks_of_raise {routine : Decoder → Res Unit} {b : Nat × Nat × Nat} {e : Exit}
    (h : onBlock routine (selectBlock b d) = .raise e d') (after : List (Nat × Nat × Nat)) :
    decodeBlocks routine (b :: after) d = .raise e d' := by
  rw [decodeBlocks, h]
  rfl

theorem mcuLoop_of_raise {routine : Decoder → Res Unit} {e : Exit} (hmore : d.mcuCount < d.mcuExpected)
    (h : decodeMcu routine d = .raise e d') (hn : 0 < n) : mcuLoop routine n d = .raise e d' := by
  obtain ⟨k, rfl⟩ : ∃ k, n = k + 1 := ⟨n - 1, by omega⟩
  refine (if_pos hmore).trans ?_
  rw [h]
  rfl

section Rows

variable (hf : s.dec.frame = some f) (hc : checkScan s f = none) (hrow : scanRow s f i m) (hbusy : s.busy = true)
include hf hc hrow hbusy

/-- The end of an MCU at one of its blocks. -/
theorem decodeMcu_of_exec_row (hwf : frameWf f) {before after : List (Nat × Nat × Nat)} {b : Nat × Nat × Nat}
    (hd : InScan s f d₂) (hmore : d₂.mcuCount < d₂.mcuExpected)
    (hblocks : mcuBlocks f d₂.scomps d₂.mcuCount = before ++ b :: after)
    (hbefore : blocksDecoded i s.uncaused before d₂ d₃)
    (h : exec i { s.uncaused with dec := selectBlock b d₃ } = .next t) (ht : t.busy = false) :
    ∃ e d', decodeMcu (scanRoutine s f) d₂ = .raise e d' ∧ endScanBy (startScan s f) e d' = .next t := by
  obtain ⟨hdecode, hd₃⟩ := decodeBlocks_of_blocksDecoded hf hc hrow hbusy hd hbefore
  have hselect : InScan s f (selectBlock b d₃) := (scanStable_inScan s f).select b hd₃
  obtain ⟨e, d', hraise, hend⟩ := onBlock_of_exec_row_end hf hc hrow hbusy hselect h ht
  have hmcu : decodeMcu (scanRoutine s f) d₂ = .raise e d' := by
    rw [decodeMcu_inScan hf hd, hblocks, decodeBlocks_append _ _ hdecode]
    exact decodeBlocks_of_raise hraise after
  have hexits : e.EndsBlock := by
    have hall := decodeMcu_exits hf hc hwf hd hmore
    rwa [hmcu] at hall
  refine ⟨e, d', hmcu, ?_⟩
  rw [← hend]
  exact (endScanBy_dec hexits s.uncaused (startScan s f).dec d').trans (endScanBy_dec hexits s.uncaused _ d').symm

/-- DECODE_SCAN is in the interval that its rows have led to. -/
theorem exec_decodeScan_of_intervalsDecoded (h : intervalsDecoded i s.uncaused f p (startScan s f).dec d₁) :
    InScan s f d₁ ∧ CountBounded d₁ ∧ ∃ n,
      exec .decodeScan s = scanOutcome (startScan s f) (intervals (scanRoutine s f) s.streamByte n d₁) := by
  obtain ⟨hd, hbound, n, -, hintervals⟩ := intervals_of_intervalsDecoded hf hc hrow hbusy (inScan_startScan s f)
    (Nat.zero_le _) (n := mcusExpected f (bindComps s f)) (Nat.sub_le _ _) h
  exact ⟨hd, hbound, n, by rw [exec_decodeScan hf hc, hintervals]⟩

/-- 44 R220 to R222: DECODE_SCAN where an interval's MCUs are decoded. -/
theorem intervalEnds_of_mcusDecoded (hintervals : intervalsDecoded i s.uncaused f p (startScan s f).dec d₁)
    (hmcus : mcusDecoded i s.uncaused f (mcusInInterval d₁) (startInterval d₁) d₂) :
    intervalEnds s.uncaused d₂ (exec .decodeScan s) := by
  obtain ⟨hd₁, hbound, n, hexec⟩ := exec_decodeScan_of_intervalsDecoded hf hc hrow hbusy hintervals
  obtain ⟨hone, -, -⟩ := oneInterval_of_mcusDecoded hf hc hrow hbusy hd₁ hbound hmcus
  rw [hexec]
  refine ⟨fun hnone => ?_, fun hi hhi => ⟨fun hnone => ?_, fun lo hlo => ⟨fun hm => ?_, fun hm hstop => ?_⟩⟩⟩
  · rw [intervals_of_raise (hone.trans (endOfIntervalMarker_eos (d := align d₂) hnone))]
    rfl
  · rw [intervals_of_raise (hone.trans (endOfIntervalMarker_half (d := align d₂) hhi hnone))]
    rfl
  · rw [intervals_of_raise (hone.trans (endOfIntervalMarker_notFound (d := align d₂) hhi hlo hm))]
    rfl
  · rw [intervals_of_stop (hone.trans (endOfIntervalMarker_eq_ok (d := align d₂) hhi hlo hm))]
    · rfl
    · rw [isRst_iff]
      rintro ⟨⟨hlow, hhigh⟩, hmore⟩
      exact hstop ⟨hlow, hhigh, hmore⟩

/-- DECODE_SCAN where the row of a block of an interval's next MCU ends the scan. -/
theorem exec_decodeScan_of_exec_row (hwf : frameWf f) {before after : List (Nat × Nat × Nat)} {b : Nat × Nat × Nat}
    (hintervals : intervalsDecoded i s.uncaused f p (startScan s f).dec d₁) (hn : n < mcusInInterval d₁)
    (hmcus : mcusDecoded i s.uncaused f n (startInterval d₁) d₂)
    (hblocks : mcuBlocks f d₂.scomps d₂.mcuCount = before ++ b :: after)
    (hbefore : blocksDecoded i s.uncaused before d₂ d₃)
    (h : exec i { s.uncaused with dec := selectBlock b d₃ } = .next t) (ht : t.busy = false) :
    exec .decodeScan s = .next t := by
  obtain ⟨hd₁, hbound, k, hexec⟩ := exec_decodeScan_of_intervalsDecoded hf hc hrow hbusy hintervals
  obtain ⟨hloop, hd₂, hcount⟩ := mcuLoop_startInterval hf hc hrow hbusy hd₁ hbound (Nat.le_of_lt hn) hmcus
  have hexpected : d₂.mcuExpected = d₁.mcuExpected := hd₂.mcuExpected.trans hd₁.mcuExpected.symm
  obtain ⟨hlimit, hleft⟩ : n < d₁.interval ∧ d₂.mcuCount < d₂.mcuExpected := by unfold mcusInInterval at hn; omega
  obtain ⟨e, d', hmcu, hend⟩ := decodeMcu_of_exec_row hf hc hrow hbusy hwf hd₂ hleft hblocks hbefore h ht
  have hone : oneInterval (scanRoutine s f) s.streamByte d₁ = .raise e d' := by
    unfold oneInterval
    dsimp only
    rw [hloop, mcuLoop_of_raise hleft hmcu (by omega)]
    rfl
  rw [hexec, intervals_of_raise hone]
  exact hend

end Rows

end Sys2Proof.Machine

/-! DECODE_SCAN on a scan that passes its checks (44 R210 to R226). -/

namespace Sys2Proof.Machine

open Sys2Proof.Safety

variable {s t : State} {f : Frame} {d d' : Decoder} {i : Instr} {m : ScanMode} {sc : ScanComp} {c : Comp} {b : Bool}
  {hi lo : Byte}

/-! The state after any scan. -/

theorem mode_of_scan (hd : InScan s f t.dec) (hrow : scanRow s f i m) :
    showsMode t m (modeBits (some m)) :=
  showsMode_of_mode (by rw [hd.mode, scanModeOf_of_scanRow hrow])

/-- A component that the scan does not name is as before the scan. -/
theorem frameComp_after_scan (hf : s.dec.frame = some f) (hc : checkScan s f = none)
    (hkeeps : ∀ q, ScanStable (scanRoutine s f) q → q (startScan s f).dec → q t.dec) {j : Nat}
    (hcomp : frameComp s.dec j = some c)
    (hunnamed : ∀ n : Fin 4, n.val < cfgNs s → scanCid (fourGet s.scanComp n) ≠ c.cid) :
    frameComp t.dec j = some c := by
  have hfc : f.comps[j]? = some c := by
    simp only [frameComp, hf] at hcomp
    exact hcomp
  exact (hkeeps _ (scanStable_compKept s f (bindComps_comp_ne hc hfc hunnamed) (some c)) ⟨rfl, hcomp⟩).2

/-! A DC_SUCC scan of one block (44 R229, R221). -/

/-- The decoder at the first block of a scan's first interval. -/
def firstBlock (s : State) (f : Frame) : Decoder := selectBlock (0, 0, 0) (startInterval (startScan s f).dec)

theorem inScan_firstBlock (s : State) (f : Frame) : InScan s f (firstBlock s f) :=
  (scanStable_inScan s f).select _ ((scanStable_inScan s f).start (inScan_startScan s f))

theorem firstBlock_withReader (hsc : bindComps s f = [sc]) :
    (firstBlock s f).withReader { s.dec with cur := s.streamPos.toNat, bitsCount := 0 } = firstBlock s f := by
  have hresets : resetPreds (startScan s f).dec.scomps (startScan s f).dec =
      modifyComp sc.comp (fun c => { c with pred := 0#32 }) (startScan s f).dec := by
    show resetPreds (bindComps s f) _ = _
    rw [hsc]
    rfl
  unfold firstBlock startInterval
  rw [hresets, modifyComp_frame]
  rfl

/-- Its component is the scan's, with the predictor 0 (44 R217). -/
theorem curComp_firstBlock (hf : s.dec.frame = some f) (hsc : bindComps s f = [sc]) (hcomp : f.comps[sc.comp]? = some c) :
    curComp (firstBlock s f) = some { c with pred := 0#32 } := by
  have hcur : curScanComp (firstBlock s f) = some sc := by
    show (firstBlock s f).scomps[0]? = some sc
    rw [(inScan_firstBlock s f).scomps, hsc]
    rfl
  have hstart : frameComp (startScan s f).dec sc.comp = some c := by
    show frameComp s.dec sc.comp = some c
    simp only [frameComp, hf]
    exact hcomp
  have hreset : frameComp (firstBlock s f) sc.comp =
      frameComp (resetPreds (bindComps s f) (startScan s f).dec) sc.comp := rfl
  simp only [curComp, hcur]
  rw [hreset, hsc]
  simp only [resetPreds, frameComp_modifyComp, if_pos, hstart, Option.map_some]

theorem decodeMcu_dcSucc (hf : s.dec.frame = some f) (hwf : frameWf f) (hc : checkScan s f = none)
    (hmode : scanModeOf s f = .dcSucc) (hsc : bindComps s f = [sc]) (hcomp : f.comps[sc.comp]? = some c)
    (hone : mcusExpected f [sc] = 1)
    (hbit : delivers s.streamByte [b] { s.dec with cur := s.streamPos.toNat, bitsCount := 0 } d') :
    decodeMcu (scanRoutine s f) (startInterval (startScan s f).dec) =
      .ok () (dcRefineBit b ((firstBlock s f).withReader d')) := by
  have hstart : InScan s f (startInterval (startScan s f).dec) := (scanStable_inScan s f).start (inScan_startScan s f)
  have hcount : (startInterval (startScan s f).dec).mcuCount = 0 := (counts_startInterval _).1
  have hblocks : mcuBlocks f [sc] 0 = [(0, 0, 0)] := by rw [mcuBlocks_single hcomp, Nat.zero_div, Nat.zero_mod]
  have hinside : BlockInside f (bindComps s f) (0, 0, 0) := by
    rw [hsc]
    exact blockInside_of_mem_mcuBlocks hwf (m := 0) (by omega) (by rw [hblocks]; exact List.mem_singleton_self _)
  have hbit' := delivers_withReader (firstBlock s f) hbit
  rw [firstBlock_withReader hsc] at hbit'
  have hroutine : scanRoutine s f (firstBlock s f) = .ok () (dcRefineBit b ((firstBlock s f).withReader d')) := by
    unfold scanRoutine
    rw [hmode]
    exact dcSuccBlock_of_delivers hbit'
  rw [decodeMcu_inScan hf hstart, hstart.scomps, hsc, hcount, hblocks]
  unfold decodeBlocks
  rw [onBlock_of_here (hstart.blockReady hf hc hinside).1]
  exact (congrArg (Res.andThen · _) hroutine).trans rfl

/-- Its one interval decodes the block, and its marker ends the scan. -/
theorem exec_decodeScan_dcSucc (hf : s.dec.frame = some f) (hwf : frameWf f) (hc : checkScan s f = none)
    (hmode : scanModeOf s f = .dcSucc) (hsc : bindComps s f = [sc]) (hcomp : f.comps[sc.comp]? = some c)
    (hone : mcusExpected f [sc] = 1)
    (hbit : delivers s.streamByte [b] { s.dec with cur := s.streamPos.toNat, bitsCount := 0 } d')
    (hhi : s.streamByte d'.cur = some hi) (hlo : s.streamByte (d'.cur + 1) = some lo) (hm : 0xFF00#16 < hi ++ lo) :
    exec .decodeScan s = .next (scanEnded (hi ++ lo) { s.uncaused with
      dec := { dcRefineBit b ((firstBlock s f).withReader d') with bitsCount := 0, mcuCount := 1, cur := d'.cur + 2 } }) := by
  set d₂ := dcRefineBit b ((firstBlock s f).withReader d') with hd₂
  obtain ⟨hcount, hexpected, hinterval⟩ := counts_startInterval (startScan s f).dec
  have hstart : (startScan s f).dec.mcuCount = 0 ∧ (startScan s f).dec.mcuExpected = 1 := by
    rw [(inScan_startScan s f).mcuExpected, hsc, hone]; exact ⟨rfl, rfl⟩
  obtain ⟨hzero, hexp⟩ := hstart
  have hmcu := decodeMcu_dcSucc hf hwf hc hmode hsc hcomp hone hbit
  rw [← hd₂] at hmcu
  obtain ⟨hcount', hexpected'⟩ := mcuCount_of_mcuOutline ((decodeMcu_mcuOutline s f _).of_ok hmcu)
  have hpos := (inScan_startScan s f).mcusInInterval_pos (by omega)
  obtain ⟨k, hk⟩ : ∃ k, (startInterval (startScan s f).dec).interval = k + 1 :=
    Nat.exists_eq_succ_of_ne_zero (by unfold mcusInInterval at hpos; omega)
  have hloop : mcuLoop (scanRoutine s f) (k + 1) (startInterval (startScan s f).dec) =
      .ok () { d₂ with mcuCount := 1 } := by
    refine (if_pos (by omega)).trans ?_
    rw [hmcu, Res.andThen_ok, show d₂.mcuCount + 1 = 1 by omega]
    exact mcuLoop_done (by dsimp only; omega) k
  have hcur : d₂.cur = d'.cur := by rw [hd₂, dcRefineBit, blkSet_frame]; rfl
  have hinterval₁ : oneInterval (scanRoutine s f) s.streamByte (startScan s f).dec =
      .ok (hi ++ lo) { d₂ with bitsCount := 0, mcuCount := 1, cur := d'.cur + 2 } := by
    unfold oneInterval
    dsimp only
    rw [hk, hloop, Res.andThen_ok]
    rw [← hcur] at hhi hlo ⊢
    exact endOfIntervalMarker_eq_ok (d := align { d₂ with mcuCount := 1 }) hhi hlo hm
  rw [exec_decodeScan hf hc, intervals_of_stop hinterval₁ fun h => absurd h.2 (by dsimp only; omega)]
  rfl

/-- The block's coefficient 0 has the bit ORed into it. -/
theorem frameComp_dcSucc (hf : s.dec.frame = some f) (hwf : frameWf f) (hsc : bindComps s f = [sc])
    (hcomp : f.comps[sc.comp]? = some c) :
    ∃ c', frameComp (dcRefineBit b ((firstBlock s f).withReader d')) sc.comp = some c' ∧
      c'.coef 0 0 0 = c.coef 0 0 0 ||| ((BitVec.ofBool b).setWidth 32 <<< cfgAl s) := by
  set d := (firstBlock s f).withReader d'
  obtain ⟨-, -, -, -, -, -, -, -, -, hcoefs⟩ := hwf
  have hrising : Store.rising c.coefs := (hcoefs c (List.mem_of_getElem? hcomp)).1.1
  have hcur : curComp d = some { c with pred := 0#32 } := curComp_firstBlock hf hsc hcomp
  obtain ⟨hcoef, -, -, hframe⟩ := dcRefineBit_spec b hcur hrising
  have hscur : curScanComp (dcRefineBit b d) = some sc := by
    rw [hframe]
    show (firstBlock s f).scomps[0]? = some sc
    rw [(inScan_firstBlock s f).scomps, hsc]
    rfl
  have hcur' : curComp (dcRefineBit b d) = some _ := (curComp_modifyCur _ d).trans (congrArg (Option.map _) hcur)
  have hal : d.al = cfgAl s := congrArg Decoder.al (inScan_firstBlock s f)
  have hat : blkGet 0 d = c.coef 0 0 0 := by
    unfold blkGet
    rw [hcur]
    rfl
  rw [hat, hal] at hcoef
  simp only [curComp, hscur] at hcur'
  refine ⟨_, hcur', ?_⟩
  rw [← hcoef]
  unfold blkGet curComp
  simp only [hscur, hcur']
  rw [hframe]
  rfl

end Sys2Proof.Machine

namespace Sys2Proof

open Machine Safety

variable {s : State} {f : Frame}

/-- The mode that every accepted scan shows, by 30 R97. -/
theorem scan_shows_its_mode {t : State} (hd : InScan s f t.dec) :
    let ss := s.scanCfg.extractLsb' 8 8
    let ah := s.scanCfg.extractLsb' 24 4
    (f.progressive = false → showsMode t .baseline 0#3) ∧
    (f.progressive = true → ss = 0#8 → ah = 0#4 → showsMode t .dcFirst 1#3) ∧
    (f.progressive = true → ss = 0#8 → ah ≠ 0#4 → showsMode t .dcSucc 2#3) ∧
    (f.progressive = true → ss ≠ 0#8 → ah = 0#4 → showsMode t .acFirst 3#3) ∧
    (f.progressive = true → ss ≠ 0#8 → ah ≠ 0#4 → showsMode t .acSucc 4#3) := by
  refine ⟨fun hp => ?_, fun hp hss hah => ?_, fun hp hss hah => ?_, fun hp hss hah => ?_, fun hp hss hah => ?_⟩
  · exact mode_of_scan hd (.inl ⟨hp, rfl, true, true, rfl⟩)
  · exact mode_of_scan hd (.inr ⟨hp, .inl ⟨hss, hah, rfl, rfl⟩⟩)
  · exact mode_of_scan hd (.inr ⟨hp, .inr (.inl ⟨hss, hah, rfl, rfl⟩)⟩)
  · exact mode_of_scan hd (.inr ⟨hp, .inr (.inr (.inl ⟨hss, hah, rfl, rfl⟩))⟩)
  · exact mode_of_scan hd (.inr ⟨hp, .inr (.inr (.inr ⟨hss, hah, rfl, rfl⟩))⟩)

/-- Settles O47: an accepted scan's rules can end only by an abort or a marker, since every block of its MCUs exists and
has its tables; the rows, run by themselves, are the scan's own routine, so its loops pass where the rows lead. -/
theorem decodeScanEndsInOneOfThreeWays : Obligations.DecodeScanEndsInOneOfThreeWays := by
  refine ⟨fun s f hs hf hc => ?_, ?_, ?_⟩
  · obtain ⟨t, hexec, ⟨hbusy, hdone, hpos, heobrun, hacState, hways⟩, hbound, hkeeps⟩ :=
      exec_decodeScan_answers hf hc (frameWf_of_stateInv hs hf)
    have hd : InScan s f t.dec := hkeeps _ (scanStable_inScan s f) (inScan_startScan s f)
    refine ⟨t, hexec, hbusy, hdone, scan_shows_its_mode hd, ?_, fun j c => frameComp_after_scan hf hc hkeeps, ?_, hpos,
      heobrun, hacState, hways⟩
    · exact congrArg Decoder.frame hd
    · exact hbound.trans_eq hd.mcuExpected
  · intro s f sc c b d' hi lo hs hf hc hp hss hah hsc hcomp hone hbit hhi hlo hm
    have hwf := frameWf_of_stateInv hs hf
    have hmode : scanModeOf s f = .dcSucc :=
      scanModeOf_of_scanRow (i := .dcSucc) (.inr ⟨hp, .inr (.inl ⟨hss, hah, rfl, rfl⟩)⟩)
    obtain ⟨c', hcomp', hcoef⟩ := frameComp_dcSucc (d' := d') (b := b) hf hwf hsc hcomp
    refine ⟨_, c', exec_decodeScan_dcSucc hf hwf hc hmode hsc hcomp hone hbit hhi hlo hm, rfl, rfl, rfl, rfl, rfl, rfl,
      rfl, rfl, ?_, hcomp', hcoef⟩
    show (dcRefineBit b ((firstBlock s f).withReader d')).mode = some .dcSucc
    rw [dcRefineBit, blkSet_frame, ← hmode]
    exact (inScan_firstBlock s f).mode
  · intro s f i m hs hbusy hf hc hrow
    have hstart : scanStart s f m = (startScan s f).dec := by rw [← scanModeOf_of_scanRow hrow]; rfl
    rw [hstart]
    refine ⟨length_bindComps hc, bindComps_getElem? hc, fun p n d₁ d₂ hintervals hn hmcus => ⟨?_, ?_⟩⟩
    · rintro rfl
      exact intervalEnds_of_mcusDecoded hf hc hrow hbusy hintervals hmcus
    · intro hlt before b after d₃ t hblocks hbefore hexec ht
      exact exec_decodeScan_of_exec_row hf hc hrow hbusy (frameWf_of_stateInv hs hf) hintervals hlt hmcus hblocks
        hbefore hexec ht

end Sys2Proof

/-! The command interface (40 R120 to R130): what the next step is, the error gate, and the host's accesses. -/

namespace Sys2Proof.Machine

open Sys2Proof.Safety

variable {s : State} {w : Word}

/-! The next step. -/

theorem step_of_agenda {m : HostMove} {rest : List HostMove} (hlatch : s.latch = none)
    (hagenda : s.agenda = m :: rest) : step s = agendaStep m { s with agenda := rest } := by
  unfold step turn
  rw [hlatch, hagenda]

theorem step_of_no_move (hlatch : s.latch = none) (hagenda : s.agenda = []) : step s = coreTurn s := by
  unfold step turn
  rw [hlatch, hagenda]

theorem step_of_latch {l : Symbol} {i : Instr} (hlatch : s.latch = some l) (hdecode : decode l.fmt l.bits = .ok i) :
    step s = exec i { s with latch := none } := by
  unfold step turn
  rw [hlatch]
  simp only [latchStep, hdecode]

theorem coreTurn_busy (hbusy : s.busy = true) : coreTurn s = coreStep s := if_pos hbusy

theorem coreTurn_idle (hbusy : s.busy = false) : coreTurn s = .next s := if_neg (by simp [hbusy])

theorem step_of_commandNext (h : commandNext s) : step s = coreStep s := by
  obtain ⟨hlatch, hagenda, hbusy⟩ := h
  rw [step_of_no_move hlatch hagenda, coreTurn_busy hbusy]

/-! The error gate (40 R120). -/

theorem gateDiscards_iff : gateDiscards s = true ↔ s.errCode ≠ .none ∧ s.pending ≠ 0#32 ∧ s.pending ≠ 1#32 := by
  simp [gateDiscards, and_assoc]

theorem coreStep_discarded (h : gateDiscards s = true) : coreStep s = .next (discardCommand s) := if_pos h

theorem coreStep_executed (h : gateDiscards s = false) : coreStep s = exec (decodeCmd s.pending) s :=
  if_neg (by simp [h])

theorem gateDiscards_eq_false (h : s.errCode = .none ∨ s.pending = 0#32 ∨ s.pending = 1#32) :
    gateDiscards s = false := by
  rw [← Bool.not_eq_true, gateDiscards_iff]
  tauto

/-- The step that runs the pending command, where the gate lets it. -/
theorem step_command (h : commandNext s) (hgate : s.errCode = .none ∨ s.pending = 0#32 ∨ s.pending = 1#32) :
    step s = exec (decodeCmd s.pending) s :=
  (step_of_commandNext h).trans (coreStep_executed (gateDiscards_eq_false hgate))

/-- The step that discards it, where the gate does not. -/
theorem step_discarded (h : commandNext s) (herr : s.errCode ≠ .none) (h0 : s.pending ≠ 0#32) (h1 : s.pending ≠ 1#32) :
    step s = .next (discardCommand s) :=
  (step_of_commandNext h).trans (coreStep_discarded (gateDiscards_iff.mpr ⟨herr, h0, h1⟩))

/-- NOP and CLEAR pass the gate, whatever ERR_CODE is. -/
theorem step_nop (h : commandNext s) (hpending : s.pending = 0#32) : step s = exec .nop s := by
  rw [step_command h (.inr (.inl hpending)), hpending]
  rfl

theorem step_clear (h : commandNext s) (hpending : s.pending = 1#32) : step s = exec .clear s := by
  rw [step_command h (.inr (.inr hpending)), hpending]
  rfl

/-! An illegal word (40 R128). -/

theorem exec_illegal (h : 8#32 ≤ w) (s : State) :
    exec (decodeCmd w) s = .next (failed .illegalCmd s.streamPos s) := by
  rw [decodeCmd_illegal h]
  split <;> rfl

/-! The host's accesses (20 R69, R72, 40 R126). -/

/-- No register shows the host's coming moves. -/
theorem readReg_agenda (r : Reg) (s : State) (moves : List HostMove) :
    readReg r { s with agenda := moves } = readReg r s := by cases r <;> rfl

theorem step_read {slot : BitVec 6} {rest : List HostMove} (hlatch : s.latch = none)
    (hagenda : s.agenda = .read slot :: rest) :
    step s = .next { s with agenda := rest, readLog := s.readLog ++ [readReg (regOfSlot slot) s] } := by
  rw [step_of_agenda hlatch hagenda, agendaStep, busRead, readReg_agenda]

theorem busWrite_busy (hbusy : s.busy = true) (slot : BitVec 6) (w : Word) :
    busWrite slot w s = { s with overrun := true, discardSeen := true } := if_pos hbusy

/-- A write of a stream byte while BUSY is 0 (20 R72): that byte of a canonical memory changes, and no other. -/
theorem streamPoke_idle (hbusy : s.busy = false) (hmem : Memory.wf s.mem) (a : Word) (b : Byte) :
    ∃ m, streamPoke a b s = .next { s with mem := m } ∧ Memory.read m a.toNat = b ∧
      ∀ x, x ≠ a.toNat → Memory.read m x = Memory.read s.mem x := by
  refine ⟨Memory.write s.mem a.toNat b, if_neg (by simp [hbusy]), ?_, fun x hx => ?_⟩
  · rw [Memory.read_write hmem]; exact if_pos rfl
  · rw [Memory.read_write hmem]; exact if_neg hx

/-- Settles O4: a step is the latched symbol's, else the agenda's next move, else the core's turn. -/
theorem stepRunsTheDecodedInstruction : Obligations.StepRunsTheDecodedInstruction := by
  refine ⟨fun s h hgate => (step_of_commandNext h).trans (coreStep_executed hgate), ?_,
    fun s l i => step_of_latch, fun s rest hlatch => ⟨?_, ?_, ?_, ?_, ?_⟩⟩
  · intro s rest hlatch hagenda hbusy hgate
    rw [step_of_agenda hlatch hagenda]
    exact (coreTurn_busy (s := { s with agenda := rest }) hbusy).trans (coreStep_executed hgate)
  · exact fun slot w hagenda => step_of_agenda hlatch hagenda
  · exact fun slot hagenda => step_read hlatch hagenda
  · intro a b hagenda
    rw [step_of_agenda hlatch hagenda]
    exact ⟨fun hbusy hmem => streamPoke_idle (s := { s with agenda := rest }) hbusy hmem a b, fun hbusy => if_pos hbusy⟩
  · exact fun hagenda hbusy => (step_of_agenda hlatch hagenda).trans (coreTurn_idle hbusy)
  · exact fun hagenda hbusy => (step_of_no_move hlatch hagenda).trans (coreTurn_idle hbusy)

/-- Settles O12: the gate lets NOP pass, and NOP only ends its step. -/
theorem nopOnlyEndsItsStep : Obligations.NopOnlyEndsItsStep :=
  fun _ => ⟨rfl, fun h hpending => step_nop h hpending⟩

/-- Settles O14: every word from 8 up decodes to one of the two rows, which the gate lets run while ERR_CODE is 0. -/
theorem illegalWordsRaiseIllegalCmd : Obligations.IllegalWordsRaiseIllegalCmd := by
  refine ⟨fun _ _ => rfl, fun _ _ => rfl, fun s h h8 herr => ?_, fun s h h8 herr => ?_⟩
  · exact (step_command h (.inl herr)).trans (exec_illegal h8 s)
  · exact step_discarded h herr (by bv_omega) (by bv_omega)

/-- Settles O15: a write to CMD is stored while BUSY is 0, and the gate lets the words 0 and 1 pass only. -/
theorem errorStateDiscardsCommands : Obligations.ErrorStateDiscardsCommands :=
  ⟨fun _ w hbusy => busWrite_idle hbusy (slotOf 0x00C) w, fun _ => step_discarded, fun _ h _ => step_nop h,
    fun _ h _ => step_clear h⟩

/-- Settles O16: the bus discards a write while BUSY is 1, and a read changes the host's log only. -/
theorem writesWhileBusyAreLost : Obligations.WritesWhileBusyAreLost :=
  fun s slot rest hbusy hlatch =>
    ⟨fun w hagenda => (step_of_agenda hlatch hagenda).trans
        (congrArg Host.Outcome.next (busWrite_busy (s := { s with agenda := rest }) hbusy slot w)),
      step_read hlatch⟩

end Sys2Proof.Machine

/-! An early end of a scan's rule records a code that is not 0 (44 R211, R220), in every state: the rules raise
SCAN_PARAM, STREAM_EOS and MARKER_NOT_FOUND only. -/

namespace Sys2Proof.Machine

/-- If the exit is a fatal error, its code is not 0. -/
def Exit.Recorded : Exit → Prop
  | .check c => c ≠ .none
  | .interval c _ => c ≠ .none
  | .abort _ | .marker _ | .stop _ | .refuse _ => True

theorem Exit.EndsBlock.recorded {e : Exit} (h : e.EndsBlock) : e.Recorded := by
  rcases h with ⟨_, rfl, -⟩ | ⟨_, rfl, -⟩ <;> trivial

theorem Exit.EndsScan.recorded {e : Exit} (h : e.EndsScan) : e.Recorded := by
  rcases h with h | ⟨c, pos, rfl, rfl | rfl⟩
  · exact h.recorded
  · exact nofun
  · exact nofun

/-- A rule that ends early with a code that is not 0, if with a fatal error at all. -/
def Records {α : Type} (rule : Decoder → Res α) : Prop := ∀ d, (rule d).Exits Exit.Recorded

theorem Records.of_endsBlock {α : Type} {rule : Decoder → Res α} (h : ∀ d, (rule d).Exits Exit.EndsBlock) :
    Records rule := fun d => (h d).imp fun _ => Exit.EndsBlock.recorded

theorem Res.Exits.records {α β : Type} {x : Res α} {f : α → Decoder → Res β} (hx : x.Exits Exit.Recorded)
    (hf : ∀ a, Records (f a)) : (x.andThen f).Exits Exit.Recorded := hx.andThen fun a d _ => hf a d

theorem Records.andThen {α β : Type} {x : Decoder → Res α} {f : α → Decoder → Res β} (hx : Records x)
    (hf : ∀ a, Records (f a)) : Records fun d => (x d).andThen f := fun d => (hx d).records hf

theorem records_ok {α : Type} (a : α) (g : Decoder → Decoder) : Records fun d => .ok a (g d) := fun _ => trivial

/-! Symbols and bits. -/

theorem readBit_records (src : Nat → Option Byte) : Records (readBit src) := .of_endsBlock (readBit_exits src)

theorem decodeHuffman_records (src : Nat → Option Byte) (t : HuffTable) : Records (decodeHuffman src t) :=
  .of_endsBlock (decodeHuffman_exits src t)

theorem dcSymbol_records (src : Nat → Option Byte) (sh : Nat) (t : Byte) : Records (dcSymbol src sh t) :=
  .of_endsBlock (dcSymbol_exits src sh t)

theorem acEob_records (src : Nat → Option Byte) (a : AcKind) (r : Nat) : Records (acEob src a r) :=
  .of_endsBlock (acEob_exits src a r)

theorem receiveExtend_records (src : Nat → Option Byte) (n : Nat) : Records (receiveExtend src n) :=
  .of_endsBlock (receiveExtend_exits src n)

theorem withPosition_records (k : Nat) (d : Decoder) {f : Nat → Res Unit} (hf : ∀ n, (f n).Exits Exit.Recorded) :
    (withPosition k d f).Exits Exit.Recorded := by
  unfold withPosition
  split
  · exact hf _
  · trivial

theorem placeAt_records (v : Coef) : Records (placeAt v) := fun d => withPosition_records d.k d fun _ => trivial

theorem refineHere_records (m : RefineMode) (b : Bool) : Records (refineHere m b) :=
  fun d => withPosition_records d.k d fun _ => trivial

theorem acRun16_records (a : AcKind) : Records (acRun16 a) := by cases a <;> exact fun _ => trivial

theorem acPlace_records (src : Nat → Option Byte) (limit sh r sz : Nat) : Records (acPlace src limit sh r sz) := by
  intro d
  unfold acPlace
  dsimp only
  split
  · trivial
  · exact (receiveExtend_records src sz _).records fun v => placeAt_records _

theorem acRunSize_records (src : Nat → Option Byte) (a : AcKind) (r sz : Nat) : Records (acRunSize src a r sz) := by
  intro d
  cases a with
  | baseline => exact acPlace_records src _ 0 r sz d
  | first => exact acPlace_records src _ d.al r sz d
  | succ => exact Records.of_endsBlock (acPend_exits src r sz) d

theorem acSymbol_records (src : Nat → Option Byte) (a : AcKind) (rs : Byte) : Records (acSymbol src a rs) := by
  intro d
  unfold acSymbol
  dsimp only
  split
  · split
    · exact acEob_records src a _ d
    · exact acRun16_records a d
  · exact acRunSize_records src a _ _ d

/-! The routines. -/

/-- A routine with no table bound takes SCAN_PARAM (log 10). -/
theorem withTable_records (t : Option HuffTable) (d : Decoder) {f : HuffTable → Res Unit}
    (hf : ∀ table, (f table).Exits Exit.Recorded) : (withTable t d f).Exits Exit.Recorded := by
  unfold withTable
  split
  · exact hf _
  · exact nofun

theorem acLoop_records (src : Nat → Option Byte) (a : AcKind) (ac : HuffTable) (fuel : Nat) :
    Records (acLoop src a ac fuel) := by
  induction fuel with
  | zero => exact fun _ => trivial
  | succ n ih =>
    intro d
    unfold acLoop
    split
    · trivial
    · exact (decodeHuffman_records src ac).andThen (fun rs => (acSymbol_records src a rs).andThen fun _ => ih) d

theorem acVisit_records (m : RefineMode) (src : Nat → Option Byte) : Records (acVisit m src) := by
  refine fun d => withPosition_records d.k d fun n => ?_
  split
  · exact (readBit_records src).andThen (fun b => refineHere_records m b) d
  · split
    · trivial
    · trivial
    · exact placeAt_records _ _
    · trivial
    · trivial

theorem acSuccSymbol_records (src : Nat → Option Byte) (ac : HuffTable) : Records (acSuccSymbol src ac) := by
  intro d
  unfold acSuccSymbol
  split
  · exact (decodeHuffman_records src ac).andThen (fun rs => acSymbol_records src .succ rs) d
  · trivial

theorem acSuccLoop_records (m : RefineMode) (src : Nat → Option Byte) (ac : HuffTable) (fuel : Nat) :
    Records (acSuccLoop m src ac fuel) := by
  induction fuel with
  | zero => exact fun _ => trivial
  | succ n ih =>
    intro d
    unfold acSuccLoop
    split
    · trivial
    · exact (acSuccSymbol_records src ac).andThen (fun _ => (acVisit_records m src).andThen fun _ => ih) d

theorem blockRoutine_records (m : RefineMode) (src : Nat → Option Byte) (mode : ScanMode) :
    Records (blockRoutine m src mode) := by
  intro d
  cases mode with
  | baseline =>
    exact withTable_records _ d fun dc => withTable_records _ d fun ac =>
      (decodeHuffman_records src dc).andThen (fun t => (dcSymbol_records src 0 t).andThen fun _ d' =>
        acLoop_records src .baseline ac 64 { d' with k := 1 }) d
  | dcFirst =>
    exact withTable_records _ d fun dc =>
      (decodeHuffman_records src dc).andThen (fun t d' => dcSymbol_records src d'.al t d') d
  | dcSucc => exact (readBit_records src).andThen (fun b => records_ok () (dcRefineBit b)) d
  | acFirst =>
    refine withTable_records _ d fun ac => ?_
    split
    · trivial
    · exact acLoop_records src .first ac 64 _
  | acSucc =>
    exact withTable_records _ d fun ac =>
      (acSuccLoop_records m src ac 64 _).records fun _ => .of_endsBlock acSuccEnd_exits

/-- So does each row run by itself. -/
theorem RowRule.records {src : Nat → Option Byte} {rule : Decoder → Res Unit} (hr : RowRule src rule) :
    Records rule := by
  cases hr with
  | category sh t => exact (receiveExtend_records src t).andThen fun v => records_ok () _
  | badCategory => exact fun _ => trivial
  | run16 a => exact acRun16_records a
  | eob a r => exact acEob_records src a r
  | runSize a r sz => exact acRunSize_records src a r sz
  | dcBit b => exact records_ok () _
  | acBit m b => exact refineHere_records m b
  | routine m mode => exact blockRoutine_records m src mode

/-! A scan's loops. -/

variable {rule : Decoder → Res Unit}

theorem onBlock_records (hr : Records rule) : Records (onBlock rule) := by
  intro d
  unfold onBlock
  split
  · exact hr d
  · trivial

theorem decodeBlocks_records (hr : Records rule) : ∀ blocks, Records (decodeBlocks rule blocks)
  | [], _ => trivial
  | b :: rest, d => (onBlock_records hr (selectBlock b d)).records fun _ => decodeBlocks_records hr rest

theorem decodeMcu_records (hr : Records rule) : Records (decodeMcu rule) := by
  intro d
  unfold decodeMcu
  split
  · exact decodeBlocks_records hr _ d
  · trivial

theorem mcuLoop_records (hr : Records rule) : ∀ n, Records (mcuLoop rule n)
  | 0, _ => trivial
  | n + 1, d => by
    unfold mcuLoop
    split
    · exact (decodeMcu_records hr d).records fun _ d' => mcuLoop_records hr n _
    · trivial

theorem oneInterval_records (hr : Records rule) (src : Nat → Option Byte) : Records (oneInterval rule src) :=
  fun d => (mcuLoop_records hr _ (startInterval d)).records fun _ d' =>
    (endOfIntervalMarker_exits src (align d')).imp fun _ => Exit.EndsScan.recorded

theorem intervals_records (hr : Records rule) (src : Nat → Option Byte) : ∀ n, Records (intervals rule src n)
  | 0 => oneInterval_records hr src
  | n + 1 => fun d => (oneInterval_records hr src d).records fun m d' => by
    split
    · exact intervals_records hr src n d'
    · trivial

end Sys2Proof.Machine

/-! How a command ends (40 R121, R122): each but DECODE_SCAN makes its checks first, so it answers its new state or the
state from before it with a nonzero code recorded. -/

namespace Sys2Proof.Machine

open Sys2Proof.Safety

variable {s t u : State} {i : Instr} {r : Result} {p : State → Prop}

/-- The command answers a new state `u` with `p u`, at the end of its step, or a fatal error of a nonzero code. -/
def EndsWith (s : State) (p : State → Prop) (r : Result) : Prop :=
  (∃ u, p u ∧ r = .next (finish u)) ∨ ∃ c pos, c ≠ .none ∧ r = .next (finish (raiseFatal c pos s))

theorem endsWith_fatalEnd {c : ErrCode} (hc : c ≠ .none) (pos : Word) : EndsWith s p (fatalEnd c pos s) :=
  .inr ⟨c, pos, hc, rfl⟩

theorem endsWith_endCommand {x : Except CommandError State} (hok : ∀ u, x = .ok u → p u)
    (herror : ∀ e, x = .error e → e.code ≠ .none) : EndsWith s p (endCommand s x) := by
  rcases endCommand_cases s x with ⟨u, hu, h⟩ | ⟨e, he, h⟩
  · exact .inl ⟨u, hok u hu, h⟩
  · exact .inr ⟨e.code, e.pos, herror e he, h⟩

theorem EndsWith.answers (h : EndsWith s p r) : ∃ u, r = .next (finish u) := by
  rcases h with ⟨u, -, hu⟩ | ⟨c, pos, -, hc⟩
  · exact ⟨u, hu⟩
  · exact ⟨_, hc⟩

theorem EndsWith.next (h : EndsWith s p r) : ∃ t, r = .next t := by
  obtain ⟨u, hu⟩ := h.answers
  exact ⟨_, hu⟩

theorem EndsWith.finished (h : EndsWith s p r) (ht : r = .next t) : ∃ u, t = finish u := by
  obtain ⟨u, hu⟩ := h.answers
  cases hu.symm.trans ht
  exact ⟨u, rfl⟩

/-! The tables. -/

/-- Equal but for the table stores and STREAM_POS. -/
def SameButTables (s t : State) : Prop :=
  t = { s with qt := t.qt, dcTab := t.dcTab, acTab := t.acTab, streamPos := t.streamPos }

theorem dqtGroup_error {wide : Bool} {tq : BitVec 4} {e : CommandError} (h : dqtGroup wide tq s = .error e) :
    e.code ≠ .none := by
  simp only [dqtGroup] at h
  split at h
  · cases h; exact nofun
  · split at h
    · cases h; exact nofun
    · cases h

theorem dhtGroup_error {ac : Bool} {th : BitVec 2} {e : CommandError} (h : dhtGroup ac th s = .error e) :
    e.code ≠ .none := by
  simp only [dhtGroup] at h
  repeat' split at h
  all_goals cases h
  all_goals exact nofun

theorem dqtGroup_endsWith (wide : Bool) (tq : BitVec 4) (s : State) :
    EndsWith s (SameButTables s) (endCommand s (dqtGroup wide tq s)) := by
  refine endsWith_endCommand (fun u hu => ?_) fun _ => dqtGroup_error
  obtain ⟨-, _, -, rfl⟩ := dqtGroup_ok hu
  rfl

theorem dhtGroup_endsWith (ac : Bool) (th : BitVec 2) (s : State) :
    EndsWith s (SameButTables s) (endCommand s (dhtGroup ac th s)) := by
  refine endsWith_endCommand (fun u hu => ?_) fun _ => dhtGroup_error
  obtain ⟨_, _, _, _, -, -, -, -, rfl⟩ := dhtGroup_ok hu
  cases ac <;> rfl

theorem execLoadDqt_endsWith (s : State) : EndsWith s (SameButTables s) (execLoadDqt s) := by
  unfold execLoadDqt
  split
  · exact endsWith_fatalEnd (by nofun) _
  · unfold dqtByte
    dsimp only
    split
    · exact dqtGroup_endsWith false _ s
    · split
      · exact dqtGroup_endsWith true _ s
      · repeat' split
        all_goals exact endsWith_fatalEnd (by nofun) _

theorem execLoadDht_endsWith (s : State) : EndsWith s (SameButTables s) (execLoadDht s) := by
  unfold execLoadDht
  split
  · exact endsWith_fatalEnd (by nofun) _
  · unfold dhtByte
    dsimp only
    split
    · exact endsWith_fatalEnd (by nofun) _
    · split
      · exact dhtGroup_endsWith _ _ s
      · exact dhtGroup_endsWith _ _ s

/-! The frame, the lines and the image. -/

theorem checkFrame_code {c : ErrCode} (h : checkFrame s = some c) : c ≠ .none := by
  unfold checkFrame at h
  dsimp only at h
  split_ifs at h
  all_goals cases h
  all_goals exact nofun

theorem checkScan_code {f : Frame} {c : ErrCode} (h : checkScan s f = some c) : c ≠ .none := by
  unfold checkScan at h
  split_ifs at h
  all_goals cases h
  all_goals exact nofun

theorem execSetFrame_endsWith (s : State) :
    EndsWith s (fun u => u = { s with dec := { s.dec with frame := some (mkFrame s) } }) (execSetFrame s) := by
  refine endsWith_endCommand (fun u hu => (setFrame_ok hu).2) fun e he => ?_
  unfold setFrame at he
  split at he
  · rename_i hc; cases he; exact checkFrame_code hc
  · cases he

/-- Equal but for the lines, the sink, the pixel position, and BUSY and DONE. -/
def SameButImage (s t : State) : Prop :=
  t = { s with lines := t.lines, sink := t.sink, px := t.px, py := t.py, busy := t.busy, done := t.done }

theorem execBuildComponents_endsWith (s : State) : EndsWith s (SameButImage s) (execBuildComponents s) := by
  refine endsWith_endCommand (fun u hu => ?_) fun e he => ?_
  · obtain ⟨_, _, -, -, -, rfl⟩ := buildComponents_ok hu
    rfl
  · unfold buildComponents at he
    repeat' split at he
    all_goals cases he
    all_goals exact nofun

/-- COLOR_CONVERT ends so too, unless a sample of its image lies outside the lines. -/
theorem execColorConvert_cases (s : State) : EndsWith s (SameButImage s) (execColorConvert s) ∨
    ∃ f planes cv, s.dec.frame = some f ∧ s.lines = some planes ∧
      conversionOf f.comps.length (srcCs s) (outCs s) = some cv ∧
      pixelEvents s.params.colorArith cv f planes (outW s) (outH s) = none ∧
      execColorConvert s = .fault .noSuchSample := by
  unfold execColorConvert
  split
  · rename_i f planes hf hlines
    split
    · exact .inl (endsWith_fatalEnd (by nofun) _)
    · split
      · exact .inl (endsWith_fatalEnd (by nofun) _)
      · rename_i cv hcv
        unfold emitImage
        split
        · rename_i hnone
          exact .inr ⟨f, planes, cv, hf, hlines, hcv, hnone, rfl⟩
        · refine .inl (.inl ⟨_, ?_, rfl⟩)
          rfl
  · exact .inl (endsWith_fatalEnd (by nofun) _)

end Sys2Proof.Machine

/-! What an instruction does to the error registers and to a scan's progress (40 R122, R124; 44 R222, R224, R226). -/

namespace Sys2Proof.Machine

open Sys2Proof.Safety

variable {s t : State} {i : Instr} {p : State → Prop}

/-- ERR_CODE and ERR_POS are as they were, or a fatal error has set ERR_CODE and the ghost flag. -/
def ErrorKept (s t : State) : Prop :=
  (t.errCode = s.errCode ∧ t.errPos = s.errPos ∧ t.faultSeen = s.faultSeen) ∨
    (t.errCode ≠ .none ∧ t.faultSeen = true)

theorem ErrorKept.refl (s : State) : ErrorKept s s := .inl ⟨rfl, rfl, rfl⟩

theorem errorKept_raiseFatal {c : ErrCode} (hc : c ≠ .none) (pos : Word) (s u : State) :
    ErrorKept s (finish (raiseFatal c pos u)) := .inr ⟨hc, rfl⟩

/-- DECODE_SCAN and the rows met in a scan, but for DC_SUCC's raw bit. -/
def IsScanInstr (i : Instr) : Prop :=
  i = .decodeScan ∨ (encode i).1 = .scanMode ∨ (encode i).1 = .dcSymbol ∨ (encode i).1 = .acSymbol ∨
    (encode i).1 = .acSuccBit ∨ (encode i).1 = .marker

/-- What an instruction that answers wrote: this is sharper than `Effect` about the errors, and about which instructions
write the scan's state. -/
inductive Progress (s : State) : Instr → State → Prop where
  | error {i : Instr} {c : ErrCode} {pos : Word} : c ≠ .none → Progress s i (finish (raiseFatal c pos s))
  | nop : Progress s .nop (finish s)
  | clear : Progress s .clear (finish (clearState s))
  | frame {f : Frame} : Progress s .setFrame (finish { s with dec := { s.dec with frame := some f } })
  | tables {i : Instr} {u : State} :
      i = .loadDqt ∨ i = .loadDht ∨ (encode i).1 = .dqtPqTq ∨ (encode i).1 = .dhtTcTh →
      SameButTables s u → Progress s i (finish u)
  | image {i : Instr} {t : State} :
      i = .buildComponents ∨ i = .colorConvert ∨ (encode i).1 = .colorDispatch → SameButImage s t → Progress s i t
  | bit {i : Instr} {d : Decoder} : (encode i).1 = .dcSuccBit → Progress s i { s with dec := d }
  | scan {i : Instr} {t : State} : IsScanInstr i → SameButScan s t → ErrorKept s t → Progress s i t

theorem EndsWith.progress {r : Result} (hr : EndsWith s p r) (h : r = .next t)
    (hp : ∀ u, p u → Progress s i (finish u)) : Progress s i t := by
  rcases hr with ⟨u, hu, ht⟩ | ⟨c, pos, hc, ht⟩
  · cases ht.symm.trans h; exact hp u hu
  · cases ht.symm.trans h; exact .error hc

/-! The rows of a scan. -/

theorem endScanBy_writes {e : Exit} {d : Decoder} (he : e.Recorded) (h : endScanBy s e d = .next t) :
    SameButScan s t ∧ ErrorKept s t := by
  rcases endScanBy_next h with ⟨c, rfl, rfl⟩ | ⟨m, rfl, rfl⟩ | ⟨c, rfl, rfl⟩ | ⟨c, pos, rfl, rfl⟩
  · exact ⟨rfl, .inl ⟨rfl, rfl, rfl⟩⟩
  · exact ⟨rfl, .inl ⟨rfl, rfl, rfl⟩⟩
  · exact ⟨rfl, errorKept_raiseFatal he _ s _⟩
  · exact ⟨rfl, errorKept_raiseFatal he _ s _⟩

theorem runRule_progress {rule : Decoder → Res Unit} (hi : IsScanInstr i) (hr : (rule s.dec).Exits Exit.Recorded)
    (h : runRule s rule = .next t) : Progress s i t := by
  rcases runRule_cases s rule with ⟨-, h'⟩ | ⟨-, d, -, h'⟩ | ⟨-, e, d, hraise, h'⟩
  · rw [h'] at h; cases h; exact .error nofun
  · rw [h'] at h; cases h; exact .scan hi rfl (.refl s)
  · rw [hraise] at hr
    rw [h'] at h
    obtain ⟨hsame, herr⟩ := endScanBy_writes hr h
    exact .scan hi hsame herr

theorem runMode_progress {mode : ScanMode} (hi : IsScanInstr i) (h : runMode mode s = .next t) : Progress s i t :=
  runRule_progress
    (rule := fun d => onBlock (blockRoutine s.params.refineMode s.streamByte mode) { d with mode := some mode }) hi (onBlock_records (blockRoutine_records _ _ mode) _) h

theorem runDc_progress {rule : Nat → Decoder → Res Unit} (hi : IsScanInstr i)
    (hr : ∀ sh, RowRule s.streamByte (rule sh)) (h : runDc s rule = .next t) : Progress s i t := by
  refine runRule_progress hi ?_ h
  split
  · exact onBlock_records (hr _).records _
  · exact onBlock_records (hr _).records _
  all_goals trivial

theorem runAc_progress {rule : AcKind → Decoder → Res Unit} (hi : IsScanInstr i)
    (hr : ∀ a, RowRule s.streamByte (rule a)) (h : runAc s rule = .next t) : Progress s i t := by
  refine runRule_progress hi ?_ h
  split
  · exact onBlock_records (hr _).records _
  · exact onBlock_records (hr _).records _
  · exact onBlock_records (hr _).records _
  all_goals trivial

theorem markerEndsScan_progress {m : Half} (hi : IsScanInstr i) (h : markerEndsScan m s = .next t) :
    Progress s i t := by
  rw [markerEndsScan_eq] at h
  cases h
  split
  · exact .scan hi rfl (.inl ⟨rfl, rfl, rfl⟩)
  · exact .error nofun

theorem restartMarker_progress {m : Half} (hi : IsScanInstr i) (h : restartMarker m s = .next t) : Progress s i t := by
  rw [restartMarker_eq] at h
  cases h
  split
  · split
    · exact .scan hi rfl (.inl ⟨rfl, rfl, rfl⟩)
    · exact .scan hi rfl (.inl ⟨rfl, rfl, rfl⟩)
  · exact .error nofun

/-- DC_SUCC's raw bit changes the decoder only: its rule cannot end early but by a fault (44 R229). -/
theorem execDcSuccBit_progress {b : Bool} (h : execDcSuccBit b s = .next t) : Progress s (.dcSuccBit b) t := by
  rcases runRule_cases s (onBlock fun d => .ok () (dcRefineBit b d)) with
    ⟨-, h'⟩ | ⟨-, d, -, h'⟩ | ⟨-, e, d, hraise, h'⟩
  · cases h'.symm.trans h; exact .error nofun
  · cases h'.symm.trans h; exact .bit rfl
  · unfold onBlock at hraise
    split at hraise
    · cases hraise
    · cases hraise; cases h'.symm.trans h

theorem scanOutcome_writes {x : Res Half} (hx : x.Exits Exit.Recorded) (h : scanOutcome s x = .next t) :
    SameButScan s t ∧ ErrorKept s t := by
  cases x with
  | ok m d => cases h; exact ⟨rfl, .inl ⟨rfl, rfl, rfl⟩⟩
  | raise e d => exact endScanBy_writes hx h

theorem execDecodeScan_progress (h : execDecodeScan s = .next t) : Progress s .decodeScan t := by
  have hexec : exec .decodeScan s = .next t := h
  unfold execDecodeScan at h
  split at h
  · cases h; exact .error nofun
  · rename_i f hf
    split at h
    · rename_i hc; cases h; exact .error (checkScan_code hc)
    · rename_i hc
      rw [exec_decodeScan hf hc] at hexec
      obtain ⟨hsame, herr⟩ := scanOutcome_writes (intervals_records (blockRoutine_records _ _ _) _ _ _) hexec
      exact .scan (.inl rfl) ((scanned_startScan s f).1.trans hsame) herr

theorem emitPixel_progress {cv : Conversion} (hi : (encode i).1 = .colorDispatch) (h : emitPixel cv s = .next t) :
    Progress s i t := by
  rcases emitPixel_next h with rfl | ⟨e, rfl⟩
  · exact .error nofun
  · exact .image (.inr (.inr hi)) rfl

theorem execColorConvert_progress (h : execColorConvert s = .next t) : Progress s .colorConvert t := by
  rcases execColorConvert_cases s with hends | ⟨-, -, -, -, -, -, -, hfault⟩
  · exact hends.progress h fun u hu => .image (.inr (.inl rfl)) (by rw [hu]; rfl)
  · cases hfault.symm.trans h

/-- Where an instruction answers a next state, it did one of the listed things. -/
theorem exec_progress (h : exec i s = .next t) : Progress s i t := by
  have hmode : ∀ {i : Instr}, (encode i).1 = .scanMode → IsScanInstr i := fun h => .inr (.inl h)
  have hdc : ∀ {i : Instr}, (encode i).1 = .dcSymbol → IsScanInstr i := fun h => .inr (.inr (.inl h))
  have hac : ∀ {i : Instr}, (encode i).1 = .acSymbol → IsScanInstr i := fun h => .inr (.inr (.inr (.inl h)))
  have hmarker : ∀ {i : Instr}, (encode i).1 = .marker → IsScanInstr i := fun h => .inr (.inr (.inr (.inr (.inr h))))
  cases i with
  | nop => cases h; exact .nop
  | clear => cases h; exact .clear
  | loadDqt => exact (execLoadDqt_endsWith s).progress h fun _ => .tables (.inl rfl)
  | loadDht => exact (execLoadDht_endsWith s).progress h fun _ => .tables (.inr (.inl rfl))
  | setFrame => exact (execSetFrame_endsWith s).progress h fun _ hu => hu ▸ .frame
  | decodeScan => exact execDecodeScan_progress h
  | buildComponents =>
    exact (execBuildComponents_endsWith s).progress h fun u hu => .image (.inl rfl) (by rw [hu]; rfl)
  | colorConvert => exact execColorConvert_progress h
  | dqtGroup8 | dqtGroup16 =>
    exact (dqtGroup_endsWith _ _ s).progress h fun _ => .tables (.inr (.inr (.inl rfl)))
  | dhtGroupDc | dhtGroupAc =>
    exact (dhtGroup_endsWith _ _ s).progress h fun _ => .tables (.inr (.inr (.inr rfl)))
  | illegalCmdLow | illegalCmdOther | dqtReserved2 | dqtReserved4 | dqtReserved8 | dhtReserved | colorModeOther =>
    cases h; exact .error nofun
  | baseline | dcFirst | dcSucc | acFirst | acSucc => exact runMode_progress (hmode rfl) h
  | dcDiff t => exact runDc_progress (hdc rfl) (fun sh => .category sh t.toNat) h
  | dcReserved16 | dcReserved32 | dcReserved64 | dcReserved128 =>
    exact runDc_progress (hdc rfl) (fun _ => .badCategory) h
  | acZrl => exact runAc_progress (hac rfl) .run16 h
  | acEob0 r | acEob8 r | acEob12 r => exact runAc_progress (hac rfl) (fun a => .eob a r.toNat) h
  | acEob14 => exact runAc_progress (hac rfl) (fun a => .eob a 14) h
  | acRunSize1 r => exact runAc_progress (hac rfl) (fun a => .runSize a r.toNat 1) h
  | acRunSize2 r sz | acRunSize4 r sz | acRunSize8 r sz =>
    exact runAc_progress (hac rfl) (fun a => .runSize a r.toNat sz.toNat) h
  | dcSuccBit b => exact execDcSuccBit_progress h
  | acSuccCorrectionBit b =>
    exact runRule_progress (.inr (.inr (.inr (.inr (.inl rfl))))) (onBlock_records (refineHere_records _ b) _) h
  | soi | eoi | sof0 | sof2 | dht | dqt | sos | dri | app | com => exact markerEndsScan_progress (hmarker rfl) h
  | rst => exact restartMarker_progress (hmarker rfl) h
  | stuffedFF =>
    exact runRule_progress (rule := fun d => (deliver 0xFF#8 d).andThen fun _ d' => .ok () d') (hmarker rfl) trivial h
  | color1cYCbCrOutYCbCr | color1cYCbCrOutRgb | color1cCmykOutYCbCr | color1cCmykOutRgb | color1cYcckOutYCbCr
  | color1cYcckOutRgb | color2cYCbCrOutYCbCr | color2cYCbCrOutRgb | color2cCmykOutYCbCr | color2cCmykOutRgb
  | color2cYcckOutYCbCr | color2cYcckOutRgb | color3cYCbCrOutYCbCr | color3cYCbCrOutRgb | color4cCmykOutYCbCr
  | color4cCmykOutRgb | color4cYcckOutYCbCr | color4cYcckOutRgb => exact emitPixel_progress rfl h

theorem exec_errorKept (h : exec i s = .next t) : i = .clear ∨ ErrorKept s t := by
  cases exec_progress h with
  | error hc => exact .inr (errorKept_raiseFatal hc _ s s)
  | clear => exact .inl rfl
  | tables _ hsame => exact .inr (hsame ▸ .inl ⟨rfl, rfl, rfl⟩)
  | image _ hsame => exact .inr (hsame ▸ .inl ⟨rfl, rfl, rfl⟩)
  | scan _ _ herr => exact .inr herr
  | _ => exact .inr (.inl ⟨rfl, rfl, rfl⟩)

/-- No instruction discards a write or a command: the bus and the error gate do (40 R120, R126). -/
theorem exec_discards (h : exec i s = .next t) : t.overrun = s.overrun ∧ t.discardSeen = s.discardSeen := by
  cases exec_progress h with
  | tables _ hsame => rw [hsame]; exact ⟨rfl, rfl⟩
  | image _ hsame => rw [hsame]; exact ⟨rfl, rfl⟩
  | scan _ hsame => rw [hsame]; exact ⟨rfl, rfl⟩
  | _ => exact ⟨rfl, rfl⟩

/-- Equal in LAST_MARKER, EOBRUN, AC_STATE and the abort's record. -/
def SameScanProgress (s t : State) : Prop :=
  t.lastMarker = s.lastMarker ∧ t.eobrunReg = s.eobrunReg ∧ t.acStateReg = s.acStateReg ∧
    t.scanAborted = s.scanAborted ∧ t.abortCause = s.abortCause

theorem SameScanProgress.refl (s : State) : SameScanProgress s s := ⟨rfl, rfl, rfl, rfl, rfl⟩

theorem exec_sameScanProgress (h : exec i s = .next t) (hclear : i ≠ .clear) (hscan : ¬ IsScanInstr i) :
    SameScanProgress s t := by
  cases exec_progress h with
  | clear => exact (hclear rfl).elim
  | tables _ hsame => rw [hsame]; exact .refl s
  | image _ hsame => rw [hsame]; exact .refl s
  | scan hi => exact (hscan hi).elim
  | _ => exact .refl s

theorem exec_dec (h : exec i s = .next t) (hclear : i ≠ .clear) (hscan : ¬ IsScanInstr i)
    (hbit : (encode i).1 ≠ .dcSuccBit) (hframe : i ≠ .setFrame) : t.dec = s.dec := by
  cases exec_progress h with
  | clear => exact (hclear rfl).elim
  | frame => exact (hframe rfl).elim
  | tables _ hsame => rw [hsame]; rfl
  | image _ hsame => rw [hsame]
  | bit hi => exact (hbit hi).elim
  | scan hi => exact (hscan hi).elim
  | _ => rfl

/-- The instructions that move STREAM_POS: those of a scan, and those that load a table. -/
def MovesStream (i : Instr) : Prop :=
  IsScanInstr i ∨ i = .loadDqt ∨ i = .loadDht ∨ (encode i).1 = .dqtPqTq ∨ (encode i).1 = .dhtTcTh

theorem exec_streamPos (h : exec i s = .next t) (hi : ¬ MovesStream i) : t.streamPos = s.streamPos := by
  cases exec_progress h with
  | tables htables => exact (hi (.inr htables)).elim
  | image _ hsame => rw [hsame]
  | scan hscan => exact (hi (.inl hscan)).elim
  | _ => rfl

theorem not_movesStream_of_color (hi : (encode i).1 = .colorDispatch) : ¬ MovesStream i := by
  have hcommand : ∀ {c : Instr}, (encode c).1 = .cmd → i ≠ c := by rintro c hc rfl; cases hi.symm.trans hc
  have hscan : i ≠ .decodeScan := hcommand rfl
  have hdqt : i ≠ .loadDqt := hcommand rfl
  have hdht : i ≠ .loadDht := hcommand rfl
  simp [MovesStream, IsScanInstr, hi, hscan, hdqt, hdht]

/-- Settles O21: the error registers change by a fatal error or CLEAR, and the scan's progress by the instructions of a
scan. -/
theorem instructionsWriteOnlyTheirProgress : Obligations.InstructionsWriteOnlyTheirProgress := by
  intro i s t h
  refine ⟨?_, exec_discards h, ?_, ?_⟩
  · rcases exec_errorKept h with hclear | hkept | hfatal
    · exact .inr (.inl hclear)
    · exact .inl hkept
    · exact .inr (.inr hfatal)
  · intro hclear hdecode hmode hdc hac hsucc hmarker
    have hscan : ¬ IsScanInstr i := by unfold IsScanInstr; tauto
    obtain ⟨hlast, heobrun, hstate, haborted, hcause⟩ := exec_sameScanProgress h hclear hscan
    exact ⟨hlast, heobrun, hstate, haborted, hcause, exec_dec h hclear hscan⟩
  · intro hi
    refine exec_streamPos h ?_
    rcases hi with rfl | rfl | rfl | rfl | rfl | ⟨op, rfl⟩ | ⟨w, rfl⟩ | hi
    case inr.inr.inr.inr.inr.inr.inr => exact not_movesStream_of_color hi
    all_goals simp [MovesStream, IsScanInstr, encode]

end Sys2Proof.Machine

/-! The ways out of the error state (40 R124), and the end of every command step (40 R121, 60 R327). -/

namespace Sys2Proof.Machine

open Sys2Proof.Safety

variable {s t : State} {i : Instr} {p : State → Prop}

/-- An instruction that takes a nonzero ERR_CODE to 0 is CLEAR. -/
theorem clear_of_errCode (h : exec i s = .next t) (hs : s.errCode ≠ .none) (ht : t.errCode = .none) : i = .clear := by
  rcases exec_errorKept h with hclear | ⟨hkept, -⟩ | ⟨herror, -⟩
  · exact hclear
  · exact (hs (hkept.symm.trans ht)).elim
  · exact (herror ht).elim

/-- Settles O13: CLEAR's writes are its list, which a second CLEAR writes again, and every other instruction keeps
ERR_CODE or records a nonzero one. -/
theorem clearEmptiesTheCore : Obligations.ClearEmptiesTheCore :=
  ⟨fun s => ⟨finish (clearState s), rfl, rfl, rfl⟩, fun _ => step_clear, fun _ _ _ => clear_of_errCode⟩

/-! Every command, run or discarded, ends its step. -/

theorem decodeCmd_format (w : Word) : (encode (decodeCmd w)).1 = .cmd := congrArg Prod.fst (decodeCmd_encodesTo w).2

theorem endScanBy_finished {e : Exit} {d : Decoder} (h : endScanBy s e d = .next t) : ∃ u, t = finish u := by
  rcases endScanBy_next h with ⟨c, -, rfl⟩ | ⟨m, -, rfl⟩ | ⟨c, -, rfl⟩ | ⟨c, pos, -, rfl⟩ <;> exact ⟨_, rfl⟩

theorem execDecodeScan_finished (h : execDecodeScan s = .next t) : ∃ u, t = finish u := by
  rcases execDecodeScan_next h with ⟨c, rfl⟩ | ⟨f, -, -, ⟨m, d, rfl⟩ | ⟨e, d, hend⟩⟩
  · exact ⟨_, rfl⟩
  · exact ⟨_, rfl⟩
  · exact endScanBy_finished hend

theorem execColorConvert_finished (h : execColorConvert s = .next t) : ∃ u, t = finish u := by
  rcases execColorConvert_next h with ⟨c, rfl⟩ | ⟨new, rfl⟩ <;> exact ⟨_, rfl⟩

theorem exec_command_finished (hi : (encode i).1 = .cmd) (h : exec i s = .next t) : ∃ u, t = finish u := by
  cases i with
  | nop | clear | illegalCmdLow | illegalCmdOther => cases h; exact ⟨_, rfl⟩
  | loadDqt => exact (execLoadDqt_endsWith s).finished h
  | loadDht => exact (execLoadDht_endsWith s).finished h
  | setFrame => exact (execSetFrame_endsWith s).finished h
  | decodeScan => exact execDecodeScan_finished h
  | buildComponents => exact (execBuildComponents_endsWith s).finished h
  | colorConvert => exact execColorConvert_finished h
  | _ => cases hi

theorem coreStep_finished (h : coreStep s = .next t) : ∃ u, t = finish u := by
  cases hgate : gateDiscards s with
  | true => cases (coreStep_discarded hgate).symm.trans h; exact ⟨_, rfl⟩
  | false => exact exec_command_finished (decodeCmd_format s.pending) ((coreStep_executed hgate).symm.trans h)

/-- Neither the gate nor an instruction writes CTRL. -/
theorem coreStep_irqEn (h : coreStep s = .next t) : t.irqEn = s.irqEn := by
  cases hgate : gateDiscards s with
  | true => cases (coreStep_discarded hgate).symm.trans h; rfl
  | false =>
    obtain ⟨-, -, hirq, -⟩ := exec_sameHostState ((coreStep_executed hgate).symm.trans h)
    exact hirq

/-- Settles O18: a command step ends by `finish`, and leaves IRQ_EN. -/
theorem everyCommandStepRaisesDone : Obligations.EveryCommandStepRaisesDone := by
  intro s t hnext h
  rw [step_of_commandNext hnext] at h
  have hirq := coreStep_irqEn h
  obtain ⟨u, rfl⟩ := coreStep_finished h
  exact ⟨rfl, rfl, hirq, (Bool.and_true u.irqEn).trans hirq⟩

end Sys2Proof.Machine

/-! No command stops a well-formed machine (43 R196, 46 R295 (a)): a scan's blocks exist, and every sample of an image
lies within the lines. -/

namespace Sys2Proof.Machine

open Sys2Proof.Safety

variable {s : State} {i : Instr} {f : Frame} {planes : List Plane} {arith : ColorArith}

/-! Samples (46 R295). -/

/-- A side's unpadded blocks of a component hold every sample that an output coordinate names. -/
theorem sampleIndex_lt {coord size factor outSize maxFactor : Nat} (hcoord : coord < outSize) (hsize : 1 ≤ size)
    (hfactor : 1 ≤ factor) (hmax : factor ≤ maxFactor) (arith : ColorArith) :
    sampleIndex arith coord size factor outSize maxFactor (8 * ceilDiv (ceilDiv size 8 * factor) maxFactor) <
      8 * ceilDiv (ceilDiv size 8 * factor) maxFactor := by
  have hmaxpos : 0 < maxFactor := by omega
  generalize hn : ceilDiv (ceilDiv size 8 * factor) maxFactor = n
  have hround : size * factor ≤ maxFactor * (8 * n) := by
    have hblocks : ceilDiv size 8 * factor ≤ n * maxFactor := (ceilDiv_le_iff hmaxpos).mp hn.le
    have hsamples : size ≤ ceilDiv size 8 * 8 := (ceilDiv_le_iff (by decide)).mp (Nat.le_refl _)
    calc size * factor ≤ ceilDiv size 8 * 8 * factor := Nat.mul_le_mul_right _ hsamples
      _ = 8 * (ceilDiv size 8 * factor) := by ring
      _ ≤ 8 * (n * maxFactor) := Nat.mul_le_mul_left _ hblocks
      _ = maxFactor * (8 * n) := by ring
  have hpos : 0 < size * factor := Nat.mul_pos hsize hfactor
  cases arith with
  | exact =>
    rw [sampleIndex_exact, Nat.div_lt_iff_lt_mul (Nat.mul_pos (by omega) hmaxpos)]
    calc coord * size * factor = coord * (size * factor) := Nat.mul_assoc ..
      _ < outSize * (size * factor) := Nat.mul_lt_mul_of_pos_right hcoord hpos
      _ ≤ outSize * (maxFactor * (8 * n)) := Nat.mul_le_mul_left _ hround
      _ = 8 * n * (outSize * maxFactor) := by ring
  | other j =>
    refine sampleIndex_other_lt j _ _ _ _ _ (Nat.pos_of_ne_zero fun hzero => ?_)
    rw [hzero] at hround
    omega

theorem planesWf_getElem? : ∀ {comps : List Comp} {planes : List Plane}, planesWf comps planes →
    ∀ {j : Nat} {c : Comp}, comps[j]? = some c → ∃ plane, planes[j]? = some plane ∧ planeWf c plane
  | c :: _, plane :: _, ⟨hc, _⟩, 0, _, h => by cases h; exact ⟨plane, rfl, hc⟩
  | _ :: _, _ :: _, ⟨_, hrest⟩, _ + 1, _, h => planesWf_getElem? hrest h

/-- Every component has its sample at every output pixel. -/
theorem sample_isSome (hf : frameWf f) (hplanes : planesWf f.comps planes) {j ow oh x y : Nat}
    (hj : j < f.comps.length) (hx : x < ow) (hy : y < oh) : (sample arith f planes ow oh x y j).isSome := by
  have hc : f.comps[j]? = some f.comps[j] := List.getElem?_eq_getElem hj
  obtain ⟨plane, hplane, hrows, hcols⟩ := planesWf_getElem? hplanes hc
  obtain ⟨-, ⟨hw, -⟩, ⟨hh, -⟩, -, -, -, -, -, hcomps, -⟩ := hf
  obtain ⟨⟨hh1, -⟩, ⟨hv1, -⟩, hhmax, hvmax, -, hbpl, hbpc, -⟩ := hcomps _ (List.getElem_mem hj)
  have hix := sampleIndex_lt hx hw hh1 hhmax arith
  have hiy := sampleIndex_lt hy hh hv1 hvmax arith
  rw [← hbpl] at hix
  rw [← hbpc] at hiy
  unfold sample
  simp only [hc, hplane]
  rw [Nat.min_eq_left (by omega)]
  obtain ⟨row, hrow⟩ : ∃ row,
      plane[sampleIndex arith y f.scanLines f.comps[j].v oh f.maxV (8 * f.comps[j].bpc)]? = some row :=
    ⟨_, List.getElem?_eq_getElem (by rw [hrows]; exact hiy)⟩
  rw [hrow]
  simpa [hcols row (List.mem_of_getElem? hrow)] using hix

/-- The components that a conversion samples. -/
def Conversion.inputs : Conversion → Nat
  | .grayYcc | .grayRgb => 1
  | .dual => 2
  | .yccPass | .yccRgb => 3
  | .cmykRgb | .ycckRgb => 4

theorem pixelEvent_isSome (cv : Conversion) (x y : Nat) {v : Nat → Option Byte} (hv : ∀ j < cv.inputs, (v j).isSome) :
    (pixelEvent arith cv x y v).isSome := by
  have hsome : ∀ j < cv.inputs, ∃ b, v j = some b := fun j hj => Option.isSome_iff_exists.mp (hv j hj)
  cases cv with
  | grayYcc | grayRgb =>
    obtain ⟨a, ha⟩ := hsome 0 (by decide)
    simp [pixelEvent, ha]
  | dual =>
    obtain ⟨a, ha⟩ := hsome 0 (by decide)
    obtain ⟨b, hb⟩ := hsome 1 (by decide)
    simp [pixelEvent, ha, hb]
  | yccPass | yccRgb =>
    obtain ⟨a, ha⟩ := hsome 0 (by decide)
    obtain ⟨b, hb⟩ := hsome 1 (by decide)
    obtain ⟨c, hc⟩ := hsome 2 (by decide)
    simp [pixelEvent, ha, hb, hc]
  | cmykRgb | ycckRgb =>
    obtain ⟨a, ha⟩ := hsome 0 (by decide)
    obtain ⟨b, hb⟩ := hsome 1 (by decide)
    obtain ⟨c, hc⟩ := hsome 2 (by decide)
    obtain ⟨k, hk⟩ := hsome 3 (by decide)
    simp [pixelEvent, ha, hb, hc, hk]

theorem conversionOf_inputs {n : Nat} {src out : BitVec 2} {cv : Conversion} (h : conversionOf n src out = some cv) :
    cv.inputs = n := by
  unfold conversionOf at h
  split at h
  · cases h
  · split at h
    all_goals repeat' split at h
    all_goals cases h
    all_goals rfl

theorem collect_isSome {α : Type} : ∀ {xs : List (Option α)}, (∀ x ∈ xs, x.isSome) → (collect xs).isSome
  | [], _ => rfl
  | none :: _, h => by simpa using h none (by simp)
  | some a :: rest, h => by
    obtain ⟨more, hmore⟩ := Option.isSome_iff_exists.mp
      (collect_isSome (xs := rest) fun x hx => h x (List.mem_cons_of_mem _ hx))
    simp [collect, hmore]

/-- A well-formed frame's image has all its pixel events. -/
theorem pixelEvents_isSome (hf : frameWf f) (hplanes : planesWf f.comps planes) {cv : Conversion}
    (hcv : cv.inputs = f.comps.length) (ow oh : Nat) : (pixelEvents arith cv f planes ow oh).isSome := by
  refine collect_isSome fun e he => ?_
  obtain ⟨⟨x, y⟩, hp, rfl⟩ := List.mem_map.mp he
  have hxy : x < ow ∧ y < oh := by
    simp only [pixelOrder, List.mem_flatMap, List.mem_map, List.mem_range] at hp
    obtain ⟨y', hy, x', hx, heq⟩ := hp
    cases heq
    exact ⟨hx, hy⟩
  exact pixelEvent_isSome cv x y fun j hj => sample_isSome hf hplanes (hcv ▸ hj) hxy.1 hxy.2

/-! Every command answers. -/

theorem planesWf_of_stateInv (hs : StateInv s) (hf : s.dec.frame = some f) (hlines : s.lines = some planes) :
    planesWf f.comps planes := by
  obtain ⟨-, ⟨-, -, hwf⟩, -, -⟩ := hs
  rw [hf, hlines] at hwf
  exact hwf

theorem execColorConvert_answers (hs : StateInv s) : ∃ t, execColorConvert s = .next t := by
  rcases execColorConvert_cases s with hends | ⟨f, planes, cv, hf, hlines, hcv, hnone, -⟩
  · exact hends.next
  · have hsome := pixelEvents_isSome (arith := s.params.colorArith) (frameWf_of_stateInv hs hf)
      (planesWf_of_stateInv hs hf hlines) (conversionOf_inputs hcv) (outW s) (outH s)
    rw [hnone] at hsome
    cases hsome

theorem execDecodeScan_answers (hs : StateInv s) : ∃ t, execDecodeScan s = .next t := by
  cases hf : s.dec.frame with
  | none => exact ⟨_, by unfold execDecodeScan; rw [hf]; rfl⟩
  | some f =>
    cases hc : checkScan s f with
    | some c => exact ⟨_, by unfold execDecodeScan; simp only [hf, hc]; rfl⟩
    | none =>
      obtain ⟨t, ht, -⟩ := exec_decodeScan_answers hf hc (frameWf_of_stateInv hs hf)
      exact ⟨t, ht⟩

theorem exec_command_answers (hs : StateInv s) (hi : (encode i).1 = .cmd) : ∃ t, exec i s = .next t := by
  cases i with
  | nop | clear | illegalCmdLow | illegalCmdOther => exact ⟨_, rfl⟩
  | loadDqt => exact (execLoadDqt_endsWith s).next
  | loadDht => exact (execLoadDht_endsWith s).next
  | setFrame => exact (execSetFrame_endsWith s).next
  | decodeScan => exact execDecodeScan_answers hs
  | buildComponents => exact (execBuildComponents_endsWith s).next
  | colorConvert => exact execColorConvert_answers hs
  | _ => cases hi

/-- Settles O10: a discarded command answers, and so does every command that the gate lets run. -/
theorem wellFormedCommandsNeverStop : Obligations.WellFormedCommandsNeverStop := by
  intro s hs hnext
  rw [step_of_commandNext hnext]
  cases hgate : gateDiscards s with
  | true => exact ⟨_, coreStep_discarded hgate⟩
  | false =>
    rw [coreStep_executed hgate]
    exact exec_command_answers hs (decodeCmd_format s.pending)

end Sys2Proof.Machine

/-! A byte is fetched where no bits are held (41 R142 to R144, R148), and received bits write a number (41 R146). -/

namespace Sys2Proof.Machine

open Sys2Proof.Safety

variable {src : Nat → Option Byte} {d d' : Decoder}

/-- A held bit is read without a fetch. -/
theorem readBit_of_held {n : Nat} (h : d.bitsCount = n + 1) :
    readBit src d = .ok (d.bitsData.getLsbD n) { d with bitsCount := n } := by
  unfold readBit
  rw [h, if_pos n.succ_pos, Nat.add_sub_cancel]

/-- The held bits are delivered from the highest down. -/
theorem delivers_held (src : Nat → Option Byte) (d : Decoder) : ∀ n : Nat,
    delivers src ((List.range n).map fun i => d.bitsData.getLsbD (n - 1 - i)) { d with bitsCount := n }
      { d with bitsCount := 0 }
  | 0 => rfl
  | n + 1 => by
    rw [List.range_succ_eq_map, List.map_cons, List.map_map]
    refine ⟨_, readBit_of_held rfl, ?_⟩
    simpa [Function.comp_def, Nat.sub_sub, Nat.add_comm 1] using delivers_held src d n

/-- A byte that ReadBit fetches is delivered whole, from bit 7 down. -/
theorem delivers_byteBits {b : Byte} (h : readBit src d = deliver b d') :
    delivers src (byteBits b) d { d' with bitsData := b, bitsCount := 0 } :=
  ⟨_, h, delivers_held src { d' with bitsData := b } 7⟩

section Boundary

variable (hb : d.bitsCount = 0)

include hb

theorem readBit_of_streamEnd (hend : src d.cur = none) : readBit src d = .raise (.abort .eos) d := by
  simp [readBit, hb, hend]

theorem readBit_of_dataByte {b : Byte} (hcur : src d.cur = some b) (hff : b ≠ 0xFF#8) :
    readBit src d = deliver b { d with cur := d.cur + 1 } := by
  simp [readBit, hb, hcur, hff]

theorem readBit_of_stuffedByte (hcur : src d.cur = some 0xFF#8) (hnext : src (d.cur + 1) = some 0x00#8) :
    readBit src d = deliver 0xFF#8 { d with cur := d.cur + 2 } := by
  simp [readBit, hb, hcur, hnext]

theorem readBit_of_marker {n : Byte} (hcur : src d.cur = some 0xFF#8) (hnext : src (d.cur + 1) = some n)
    (hn : n ≠ 0x00#8) : readBit src d = .raise (.marker (bigEndian 0xFF#8 n)) { d with cur := d.cur + 2 } := by
  simp [readBit, hb, hcur, hnext, hn]

theorem readBit_of_loneFF (hcur : src d.cur = some 0xFF#8) (hnext : src (d.cur + 1) = none) :
    readBit src d = .raise (.abort .eos) { d with cur := d.cur + 1 } := by
  simp [readBit, hb, hcur, hnext]

end Boundary

/-- Settles O32: each of the five fetches at a byte boundary, the two that succeed delivering the byte's eight bits. -/
theorem fetchedBytesDeliverMsbFirst : Obligations.FetchedBytesDeliverMsbFirst :=
  fun _ _ hb =>
    ⟨readBit_of_streamEnd hb,
      fun _ hcur hff => delivers_byteBits (readBit_of_dataByte hb hcur hff),
      fun hcur hnext => delivers_byteBits (readBit_of_stuffedByte hb hcur hnext),
      fun _ => readBit_of_marker hb,
      readBit_of_loneFF hb⟩

/-- Bits appended to a number `v` leave it below the value that `v + 1` and as many zeros write. -/
theorem foldl_bits_lt (bs : List Bool) : ∀ v : Nat,
    bs.foldl (fun v b => 2 * v + b.toNat) v < (v + 1) * 2 ^ bs.length := by
  induction bs with
  | nil => simp
  | cons b bs ih =>
    intro v
    have hbit : 2 * v + b.toNat + 1 ≤ (v + 1) * 2 := by have := b.toNat_le; omega
    calc (b :: bs).foldl (fun v b => 2 * v + b.toNat) v
        < (2 * v + b.toNat + 1) * 2 ^ bs.length := ih _
      _ ≤ (v + 1) * 2 * 2 ^ bs.length := Nat.mul_le_mul_right _ hbit
      _ = (v + 1) * 2 ^ (b :: bs).length := by rw [List.length_cons, Nat.pow_succ', Nat.mul_assoc]

theorem bitsValue_lt (bs : List Bool) : bitsValue bs < 2 ^ bs.length := by
  simpa [bitsValue] using foldl_bits_lt bs 0

/-- Settles O33: Receive and ReceiveExtend answer the number of the delivered bits, and its signed value. -/
theorem receiveReadsMsbFirst : Obligations.ReceiveReadsMsbFirst :=
  fun _ bs _ _ h => ⟨receive_of_delivers rfl h, bitsValue_lt bs, receiveExtend_of_delivers rfl h⟩

end Sys2Proof.Machine

/-! The canonical table (42 R162, R163): what the construction assigns, and when it runs out of codes. -/

namespace Sys2Proof.Machine

open Sys2Proof.Safety

variable {len n code : Nat} {counts : List Nat} {vals : List Byte} {table : HuffTable}

/-- The entry that gives a value its code of length `len`. -/
def entryAt (len : Nat) (p : Byte × Nat) : HuffEntry := { len := len, code := p.2, sym := p.1 }

/-- The codes of one length go to the next `n` values, each with the code after the one before. -/
theorem assignCodes_entries (len n : Nat) : ∀ {code code' : Nat} {vals vals' : List Byte} {entries : List HuffEntry},
    assignCodes len n code vals = some (entries, code', vals') →
    n ≤ vals.length ∧ entries = ((vals.take n).zipIdx code).map (entryAt len) ∧ vals' = vals.drop n := by
  induction n with
  | zero => intro code code' vals vals' entries h; cases h; simp
  | succ n ih =>
    intro code code' vals vals' entries h
    cases vals with
    | nil => cases h
    | cons v vals =>
      simp only [assignCodes] at h
      split at h
      · cases h
      · split at h
        · cases h
        · rename_i more c vs hmore
          obtain ⟨hlength, rfl, rfl⟩ := ih hmore
          cases h
          exact ⟨Nat.succ_le_succ hlength, by simp [entryAt], rfl⟩

/-- A table of the lengths from `len` up: its codes of length `len`, then those of the longer lengths. -/
theorem assignLengths_cons (h : assignLengths len (n :: counts) code vals = some table) :
    n ≤ vals.length ∧ ∃ more, assignLengths (len + 1) counts (2 * (code + n)) (vals.drop n) = some more ∧
      table = ((vals.take n).zipIdx code).map (entryAt len) ++ more := by
  simp only [assignLengths] at h
  split at h
  · cases h
  · rename_i entries code' vals' hentries
    split at h
    · cases h
    · rename_i more hmore
      cases h
      obtain ⟨-, rfl, -, -⟩ := assignCodes_some len n hentries
      obtain ⟨hlength, rfl, rfl⟩ := assignCodes_entries len n hentries
      exact ⟨hlength, more, hmore, rfl⟩

/-- The values go to the entries in order. -/
theorem assignLengths_syms : ∀ {counts : List Nat} {len code : Nat} {vals : List Byte} {table : HuffTable},
    assignLengths len counts code vals = some table → table.map (·.sym) = vals.take counts.sum
  | [], _, _, _, _, h => by cases h; rfl
  | n :: counts, len, code, vals, _, h => by
    obtain ⟨hlength, more, hmore, rfl⟩ := assignLengths_cons h
    have hsyms : (((vals.take n).zipIdx code).map (entryAt len)).map (·.sym) = vals.take n := by
      simp [Function.comp_def, entryAt]
    rw [List.map_append, hsyms, assignLengths_syms hmore, List.sum_cons, List.take_add]

/-- Each length is given as often as its count says, the lengths rising. -/
theorem assignLengths_lens : ∀ {counts : List Nat} {k code : Nat} {vals : List Byte} {table : HuffTable},
    assignLengths (k + 1) counts code vals = some table →
    table.map (·.len) = (counts.zipIdx k).flatMap fun p => List.replicate p.1 (p.2 + 1)
  | [], _, _, _, _, h => by cases h; rfl
  | n :: counts, k, code, vals, _, h => by
    obtain ⟨hlength, more, hmore, rfl⟩ := assignLengths_cons h
    have hlens : (((vals.take n).zipIdx code).map (entryAt (k + 1))).map (·.len) = List.replicate n (k + 1) := by
      simp [Function.comp_def, entryAt, hlength]
    rw [List.map_append, hlens, assignLengths_lens hmore, List.zipIdx_cons, List.flatMap_cons]

/-- Codeword `b` comes next after `a` (42 R162): one more, doubled for each further bit. -/
def codeNext (a b : HuffEntry) : Prop := b.code = (a.code + 1) * 2 ^ (b.len - a.len)

/-- Within one length each code comes next after the one before. -/
theorem isChain_entryAt (len code : Nat) (vals : List Byte) :
    ((vals.zipIdx code).map (entryAt len)).IsChain codeNext := by
  rw [List.isChain_iff_getElem]
  intro i _
  simp [codeNext, entryAt, Nat.add_assoc]

/-- The last of them is one below the code that follows. -/
theorem getLast?_entryAt {e : HuffEntry} (h : e ∈ ((vals.zipIdx code).map (entryAt len)).getLast?) :
    e.len = len ∧ e.code + 1 = code + vals.length := by
  cases vals using List.reverseRecOn with
  | nil => simp at h
  | append_singleton vals v =>
    rw [List.zipIdx_append, List.map_append] at h
    obtain rfl : entryAt len (v, code + vals.length) = e := by simpa [entryAt] using h
    simp [entryAt, Nat.add_assoc]

/-- The first code is `code`, doubled for each bit beyond `len`, and each other code comes next after the one
before. -/
theorem assignLengths_chain : ∀ {counts : List Nat} {len code : Nat} {vals : List Byte} {table : HuffTable},
    assignLengths len counts code vals = some table →
    (∀ e ∈ table.head?, e.code = code * 2 ^ (e.len - len)) ∧ table.IsChain codeNext
  | [], _, _, _, _, h => by cases h; simp
  | n :: counts, len, code, vals, _, h => by
    obtain ⟨hlength, more, hmore, rfl⟩ := assignLengths_cons h
    obtain ⟨hhead, hchain⟩ := assignLengths_chain hmore
    have hnext : ∀ e ∈ more.head?, e.code = (code + n) * 2 ^ (e.len - len) := by
      intro e he
      obtain ⟨-, hmem, -⟩ := assignLengths_some hmore
      obtain ⟨hlen, -⟩ := hmem e (List.mem_of_mem_head? he)
      rw [hhead e he, show e.len - len = e.len - (len + 1) + 1 by omega, Nat.pow_succ]
      ring
    refine ⟨?_, (isChain_entryAt len code _).append hchain fun a ha b hb => ?_⟩
    · cases n with
      | zero => simpa using hnext
      | succ n =>
        obtain ⟨v, vs, rfl⟩ := List.exists_cons_of_length_pos (Nat.lt_of_lt_of_le n.succ_pos hlength)
        simp [entryAt]
    · obtain ⟨hlen, hcode⟩ := getLast?_entryAt ha
      rw [List.length_take_of_le hlength] at hcode
      rw [codeNext, hlen, hcode]
      exact hnext b hb

/-- A table of at most 16 counts is well formed: a codeword of 1 to 16 bits for each symbol counted, none of which begins
another. -/
theorem buildCanonical_tableWf (hcounts : counts.length ≤ 16) (h : buildCanonical counts vals = some table) :
    tableWf counts.sum table := by
  obtain ⟨hlength, hmem, hpair⟩ := assignLengths_some h
  refine ⟨hlength.le, fun e he => ?_, hpair.imp not_codePrefixOf_of_codeBefore⟩
  obtain ⟨hlo, hhi, hlt, -⟩ := hmem e he
  exact ⟨hlo, by omega, hlt⟩

/-- Settles O29: the values in order, the lengths as counted, and the codes one after the other from 0. -/
theorem canonicalCodesArePrefixFree : Obligations.CanonicalCodesArePrefixFree := by
  intro counts vals table hcounts h
  obtain ⟨hhead, hchain⟩ := assignLengths_chain h
  obtain ⟨-, hwf, hprefix⟩ := buildCanonical_tableWf hcounts h
  refine ⟨assignLengths_syms h, assignLengths_lens h, fun e he => ?_, fun j a b ha hb => ?_, hwf, hprefix⟩
  · simpa using hhead e (by rwa [List.head?_eq_getElem?])
  · obtain ⟨hj, rfl⟩ := List.getElem?_eq_some_iff.mp hb
    obtain ⟨-, rfl⟩ := List.getElem?_eq_some_iff.mp ha
    exact List.isChain_iff_getElem.mp hchain j hj

/-- The codes of one length run out exactly where the count goes beyond them. -/
theorem assignCodes_eq_none_iff (len : Nat) : ∀ {n code : Nat} {vals : List Byte}, n ≤ vals.length → code ≤ 2 ^ len →
    (assignCodes len n code vals = none ↔ 2 ^ len < code + n)
  | 0, code, _, _, hcode => by simpa [assignCodes] using hcode
  | n + 1, code, v :: vals, hlength, hcode => by
    simp only [assignCodes]
    split
    · simp only [true_iff]; omega
    · have ih := assignCodes_eq_none_iff len (n := n) (code := code + 1) (vals := vals)
        (Nat.le_of_succ_le_succ hlength) (by omega)
      rw [show code + (n + 1) = code + 1 + n by omega, ← ih]
      split <;> simp_all

/-- The construction refuses for want of codes of the shortest length, or of a longer one. -/
theorem assignLengths_cons_eq_none_iff (hlength : n ≤ vals.length) (hcode : code ≤ 2 ^ len) :
    assignLengths len (n :: counts) code vals = none ↔
      2 ^ len < code + n ∨ assignLengths (len + 1) counts (2 * (code + n)) (vals.drop n) = none := by
  rw [← assignCodes_eq_none_iff len hlength hcode]
  cases hcodes : assignCodes len n code vals with
  | none => simp [assignLengths, hcodes]
  | some assigned =>
    obtain ⟨entries, code', vals'⟩ := assigned
    obtain ⟨-, rfl, -, -⟩ := assignCodes_some len n hcodes
    obtain ⟨-, -, rfl⟩ := assignCodes_entries len n hcodes
    simp only [assignLengths, hcodes]
    split <;> simp_all

/-- Kraft's sum in units of the longest codewords: a code of length `k + 1` takes `2 ^ (15 - k)` of the `2 ^ 16`. -/
def kraftSum (k : Nat) (counts : List Nat) : Nat := ((counts.zipIdx k).map fun p => p.1 * 2 ^ (15 - p.2)).sum

theorem kraftSum_cons (k n : Nat) (counts : List Nat) :
    kraftSum k (n :: counts) = n * 2 ^ (15 - k) + kraftSum (k + 1) counts := by
  simp [kraftSum, List.zipIdx_cons]

/-- The lengths from `k + 1` up run out of codes exactly where those below `code` and those asked for are more than all
there are, counted in halves of the longest codewords. -/
theorem assignLengths_eq_none_iff : ∀ {counts : List Nat} {k code : Nat} {vals : List Byte},
    k + counts.length ≤ 16 → counts.sum ≤ vals.length → code ≤ 2 ^ (k + 1) →
    (assignLengths (k + 1) counts code vals = none ↔ 2 ^ 17 < code * 2 ^ (16 - k) + 2 * kraftSum k counts)
  | [], k, code, _, hk, _, hcode => by
    have hall : code * 2 ^ (16 - k) ≤ 2 ^ 17 := by
      calc code * 2 ^ (16 - k) ≤ 2 ^ (k + 1) * 2 ^ (16 - k) := Nat.mul_le_mul_right _ hcode
        _ = 2 ^ 17 := by rw [← Nat.pow_add, show k + 1 + (16 - k) = 17 by simp at hk; omega]
    simpa [assignLengths, kraftSum] using hall
  | n :: counts, k, code, vals, hk, hsum, hcode => by
    rw [List.length_cons] at hk
    rw [List.sum_cons] at hsum
    have hunits : code * 2 ^ (16 - k) + 2 * kraftSum k (n :: counts) =
        2 * (code + n) * 2 ^ (16 - (k + 1)) + 2 * kraftSum (k + 1) counts := by
      rw [kraftSum_cons, show 16 - k = 15 - k + 1 by omega, show 16 - (k + 1) = 15 - k by omega, Nat.pow_succ]
      ring
    rw [assignLengths_cons_eq_none_iff (by omega) hcode, hunits]
    rcases Nat.lt_or_ge (2 ^ (k + 1)) (code + n) with hover | hfits
    · have hmore : 2 ^ 17 < 2 * (code + n) * 2 ^ (16 - (k + 1)) := by
        calc 2 ^ 17 = 2 * 2 ^ (k + 1) * 2 ^ (16 - (k + 1)) := by
              rw [← Nat.pow_succ', ← Nat.pow_add, show k + 1 + 1 + (16 - (k + 1)) = 17 by omega]
          _ < 2 * (code + n) * 2 ^ (16 - (k + 1)) := Nat.mul_lt_mul_of_pos_right (by omega) (Nat.two_pow_pos _)
      exact iff_of_true (.inl hover) (Nat.lt_add_right _ hmore)
    · rw [or_iff_right (Nat.not_lt.mpr hfits), assignLengths_eq_none_iff (by omega)
        (by rw [List.length_drop]; omega) (by rw [Nat.pow_succ' (n := k + 1)]; omega)]

/-- Settles O30: the construction refuses where Kraft's sum is above 1. -/
theorem oversubscribedCountsAreRefused : Obligations.OversubscribedCountsAreRefused := by
  intro counts vals hcounts hsum
  have h := assignLengths_eq_none_iff (k := 0) (code := 0) (by simpa using hcounts) hsum (by decide)
  rw [buildCanonical, h]
  show _ ↔ 2 ^ 16 < kraftSum 0 counts
  omega

end Sys2Proof.Machine

/-! Decoding (42 R166, R167, R170): the bits read so far stand for a node of the code tree, and the next bit leads to a
codeword, to an inner node or out of the tree. -/

namespace Sys2Proof.Machine

open Sys2Proof.Safety

variable {src : Nat → Option Byte} {table : HuffTable} {bs : List Bool} {b : Bool} {d d₁ d' : Decoder} {m : Nat}

/-! Bit strings as numbers. -/

theorem bitsValue_snoc (bs : List Bool) (b : Bool) : bitsValue (bs ++ [b]) = 2 * bitsValue bs + b.toNat := by
  simp [bitsValue]

@[simp] theorem codeBits_length (len code : Nat) : (codeBits len code).length = len := by simp [codeBits]

/-- The bits of a code but for its last are those of its half. -/
theorem codeBits_succ (len code : Nat) : codeBits (len + 1) code = codeBits len (code / 2) ++ [code.testBit 0] := by
  simp only [codeBits, List.range_succ, List.map_append, List.map_cons, List.map_nil, Nat.add_sub_cancel, Nat.sub_self]
  congr 1
  refine List.map_congr_left fun i hi => ?_
  rw [List.mem_range] at hi
  rw [show len - i = len - 1 - i + 1 by omega, Nat.testBit_succ]

/-- The bits of a code that fits its length write that code. -/
theorem bitsValue_codeBits : ∀ {len code : Nat}, code < 2 ^ len → bitsValue (codeBits len code) = code
  | 0, code, h => (Nat.lt_one_iff.mp h).symm
  | len + 1, code, h => by
    rw [Nat.pow_succ'] at h
    rw [codeBits_succ, bitsValue_snoc, bitsValue_codeBits (by omega), Nat.toNat_testBit]
    omega

/-- A bit string is the bits of the number it writes. -/
theorem codeBits_bitsValue (bs : List Bool) : codeBits bs.length (bitsValue bs) = bs := by
  induction bs using List.reverseRecOn with
  | nil => rfl
  | append_singleton bs b ih =>
    have hhalf : (2 * bitsValue bs + b.toNat) / 2 = bitsValue bs := by have := b.toNat_le; omega
    have hbit : (2 * bitsValue bs + b.toNat).testBit 0 = b := by cases b <;> simp
    rw [List.length_append, List.length_singleton, codeBits_succ, bitsValue_snoc, hhalf, hbit, ih]

/-- The first bits of a code are those of the code shifted. -/
theorem take_codeBits {n len : Nat} (h : n ≤ len) (code : Nat) :
    (codeBits len code).take n = codeBits n (code >>> (len - n)) := by
  rw [codeBits, codeBits, ← List.map_take, List.take_range, Nat.min_eq_left h]
  refine List.map_congr_left fun i hi => ?_
  rw [List.mem_range] at hi
  rw [Nat.testBit_shiftRight, show len - n + (n - 1 - i) = len - 1 - i by omega]

/-- A bit string begins a codeword where the codeword's code, shifted to as many bits, is its number (42 R166). -/
theorem prefix_codeBits_iff {len code : Nat} (hcode : code < 2 ^ len) :
    bs <+: codeBits len code ↔ bs.length ≤ len ∧ code >>> (len - bs.length) = bitsValue bs := by
  constructor
  · intro h
    have hlen : bs.length ≤ len := by simpa using h.length_le
    have hfits : code >>> (len - bs.length) < 2 ^ bs.length := by
      rw [Nat.shiftRight_eq_div_pow, Nat.div_lt_iff_lt_mul (Nat.two_pow_pos _), ← Nat.pow_add]
      rwa [Nat.add_sub_cancel' hlen]
    have hbits := List.prefix_iff_eq_take.mp h
    rw [take_codeBits hlen] at hbits
    exact ⟨hlen, by rw [hbits, codeBits_length, bitsValue_codeBits hfits]⟩
  · rintro ⟨hlen, hvalue⟩
    rw [List.prefix_iff_eq_take, take_codeBits hlen, hvalue, codeBits_bitsValue]

/-! The table's answers for a bit string. -/

theorem entryWf_of_tableWf (ht : tableWf m table) : ∀ e ∈ table, entryWf e := by
  obtain ⟨-, hwf, -⟩ := ht
  exact hwf

/-- Of the codewords of a well-formed table none begins another. -/
theorem entry_eq_of_prefix (ht : tableWf m table) {a e : HuffEntry} (ha : a ∈ table) (he : e ∈ table)
    (h : codeBits a.len a.code <+: codeBits e.len e.code) : a = e := by
  obtain ⟨-, hwf, hprefix⟩ := ht
  obtain ⟨-, -, hacode⟩ := hwf a ha
  obtain ⟨-, -, hecode⟩ := hwf e he
  rw [prefix_codeBits_iff hecode, codeBits_length, bitsValue_codeBits hacode] at h
  by_contra hne
  have hsymm : Std.Symm fun a b : HuffEntry => ¬ codePrefixOf a b ∧ ¬ codePrefixOf b a := ⟨fun _ _ => And.symm⟩
  exact (hprefix.forall ha he hne).1 h

/-- No symbol is found for bits that are no codeword. -/
theorem tableSymbol_eq_none (h : ∀ e ∈ table, codeBits e.len e.code ≠ bs) :
    tableSymbol bs.length (bitsValue bs) table = none := by
  induction table with
  | nil => rfl
  | cons e table ih =>
    have hne : ¬ (e.len = bs.length ∧ e.code = bitsValue bs) := by
      rintro ⟨hlen, hcode⟩
      exact h e (.head _) (by rw [hlen, hcode, codeBits_bitsValue])
    rw [tableSymbol, if_neg hne]
    exact ih fun e he => h e (.tail _ he)

/-- The symbol found for a codeword is that of its entry, where no other entry has it. -/
theorem tableSymbol_eq_some {e : HuffEntry} (he : e ∈ table)
    (h : ∀ a ∈ table, codeBits a.len a.code = codeBits e.len e.code → a = e) :
    tableSymbol e.len e.code table = some e.sym := by
  induction table with
  | nil => cases he
  | cons a table ih =>
    rw [tableSymbol]
    split
    · rename_i hcode
      rw [h a (.head _) (by rw [hcode.1, hcode.2])]
    · rename_i hcode
      rcases List.mem_cons.mp he with rfl | he
      · exact (hcode ⟨rfl, rfl⟩).elim
      · exact ih he fun a ha => h a (.tail _ ha)

/-- Bits are an inner node of the code tree: none, or the beginning of a longer codeword. -/
def innerNode (table : HuffTable) (bs : List Bool) : Prop :=
  bs = [] ∨ ∃ e ∈ table, bs.length < e.len ∧ bs <+: codeBits e.len e.code

/-- DecodeHuffman goes on where the bits begin a longer codeword (42 R166). -/
theorem codeContinues_iff (hwf : ∀ e ∈ table, entryWf e) :
    codeContinues bs.length (bitsValue bs) table = true ↔
      ∃ e ∈ table, bs.length < e.len ∧ bs <+: codeBits e.len e.code := by
  simp only [codeContinues, List.any_eq_true, Bool.and_eq_true, decide_eq_true_eq, beq_iff_eq]
  refine exists_congr fun e => and_congr_right fun he => and_congr_right fun hlen => ?_
  obtain ⟨-, -, hcode⟩ := hwf e he
  rw [prefix_codeBits_iff hcode, and_iff_right hlen.le]

/-! The walk from the root. -/

/-- The last of the delivered bits is read after the others. -/
theorem delivers_snoc : ∀ {bs : List Bool} {d : Decoder},
    delivers src (bs ++ [b]) d d' ↔ ∃ d₁, delivers src bs d d₁ ∧ readBit src d₁ = .ok b d'
  | [], d => by simp [delivers]
  | _ :: bs, d => by
    simp only [List.cons_append, delivers, delivers_snoc (bs := bs)]
    exact ⟨fun ⟨d₁, hbit, d₂, hrest, hlast⟩ => ⟨d₂, ⟨d₁, hbit, hrest⟩, hlast⟩,
      fun ⟨d₂, ⟨d₁, hbit, hrest⟩, hlast⟩ => ⟨d₁, hbit, d₂, hrest, hlast⟩⟩

/-- The bits before any bit of a codeword are an inner node. -/
theorem innerNode_of_snoc_prefix {e : HuffEntry} (he : e ∈ table) (h : bs ++ [b] <+: codeBits e.len e.code) :
    innerNode table bs :=
  .inr ⟨e, he, by simpa using h.length_le, (List.prefix_append bs [b]).trans h⟩

/-- An inner node of a table of codewords up to 16 bits is less than 16 bits deep. -/
theorem innerNode.length_lt (hwf : ∀ e ∈ table, entryWf e) (h : innerNode table bs) : bs.length < 16 := by
  rcases h with rfl | ⟨e, he, hlen, -⟩
  · decide
  · obtain ⟨-, hmax, -⟩ := hwf e he
    omega

/-- Bits that lead to an inner node leave DecodeHuffman there, with fuel for the bits that are left (42 R166). -/
theorem decodeHuffman_of_innerNode (ht : tableWf m table) (hnode : innerNode table bs) (h : delivers src bs d d₁) :
    decodeHuffman src table d = huffmanFrom src table (15 - bs.length + 1) bs.length (bitsValue bs) d₁ := by
  have hwf := entryWf_of_tableWf ht
  induction bs using List.reverseRecOn generalizing d₁ with
  | nil =>
    obtain rfl : d = d₁ := h
    rfl
  | append_singleton bs b ih =>
    obtain ⟨d₂, hbits, hbit⟩ := delivers_snoc.mp h
    have hdeep := hnode.length_lt hwf
    rcases hnode with hnil | ⟨e, he, hlen, hprefix⟩
    · simp at hnil
    · have hcontinues : codeContinues (bs ++ [b]).length (bitsValue (bs ++ [b])) table = true :=
        (codeContinues_iff hwf).mpr ⟨e, he, hlen, hprefix⟩
      have hnone : tableSymbol (bs ++ [b]).length (bitsValue (bs ++ [b])) table = none := by
        refine tableSymbol_eq_none fun a ha hcodeword => ?_
        obtain rfl : a = e := entry_eq_of_prefix ht ha he (hcodeword ▸ hprefix)
        rw [← hcodeword, codeBits_length] at hlen
        exact Nat.lt_irrefl _ hlen
      rw [List.length_append, List.length_singleton] at hdeep hcontinues hnone ⊢
      rw [ih (innerNode_of_snoc_prefix he hprefix) hbits, show 15 - bs.length = 15 - (bs.length + 1) + 1 by omega]
      simp only [huffmanFrom, hbit, Res.andThen_ok, ← bitsValue_snoc, hnone, hcontinues, if_true]

/-- A delivered codeword decodes to the symbol of its entry (42 R166). -/
theorem decodeHuffman_of_codeword (ht : tableWf m table) {e : HuffEntry} (he : e ∈ table)
    (h : delivers src (codeBits e.len e.code) d d') : decodeHuffman src table d = .ok e.sym d' := by
  obtain ⟨hpos, -, hcode⟩ := entryWf_of_tableWf ht e he
  obtain ⟨n, hn⟩ := Nat.exists_eq_add_of_le' hpos
  rw [hn] at hcode h
  have hbits := codeBits_succ n e.code
  have hvalue := bitsValue_codeBits hcode
  rw [hbits] at h hvalue
  obtain ⟨d₁, hdeliv, hbit⟩ := delivers_snoc.mp h
  have hsymbol : tableSymbol (n + 1) e.code table = some e.sym :=
    hn ▸ tableSymbol_eq_some he fun a ha hsame => entry_eq_of_prefix ht ha he (hsame ▸ List.prefix_rfl)
  rw [decodeHuffman_of_innerNode ht (innerNode_of_snoc_prefix he (by rw [hn, hbits])) hdeliv, codeBits_length]
  simp only [huffmanFrom, hbit, Res.andThen_ok, ← bitsValue_snoc, hvalue, hsymbol]

/-- A bit that leads from an inner node to no codeword's beginning raises BAD_CODE, with that bit read (42 R167). -/
theorem decodeHuffman_badCode (ht : tableWf m table) (hnode : innerNode table bs) (h : delivers src bs d d₁)
    (hbit : readBit src d₁ = .ok b d') (hout : ∀ e ∈ table, ¬ (bs ++ [b]) <+: codeBits e.len e.code) :
    decodeHuffman src table d = .raise (.abort .badCode) d' := by
  have hnone : tableSymbol (bs ++ [b]).length (bitsValue (bs ++ [b])) table = none :=
    tableSymbol_eq_none fun e he hcodeword => hout e he (hcodeword ▸ List.prefix_rfl)
  have hstuck : ¬ codeContinues (bs ++ [b]).length (bitsValue (bs ++ [b])) table = true := by
    rw [codeContinues_iff (entryWf_of_tableWf ht)]
    rintro ⟨e, he, -, hprefix⟩
    exact hout e he hprefix
  rw [List.length_append, List.length_singleton] at hnone hstuck
  rw [decodeHuffman_of_innerNode ht hnode h]
  simp only [huffmanFrom, hbit, Res.andThen_ok, ← bitsValue_snoc, hnone, if_neg hstuck]

/-- What ends the reading of a bit ends DecodeHuffman so (42 R166). -/
theorem decodeHuffman_raise {x : Exit} (ht : tableWf m table) (hnode : innerNode table bs) (h : delivers src bs d d₁)
    (hraise : readBit src d₁ = .raise x d') : decodeHuffman src table d = .raise x d' := by
  rw [decodeHuffman_of_innerNode ht hnode h, huffmanFrom, hraise, Res.andThen_raise]

/-- The k-th entry of a canonical table has the k-th value. -/
theorem buildCanonical_sym {counts : List Nat} {vals : List Byte} {k : Nat} {e : HuffEntry}
    (h : buildCanonical counts vals = some table) (he : table[k]? = some e) : vals[k]? = some e.sym := by
  have hsym : (table.map (·.sym))[k]? = some e.sym := by rw [List.getElem?_map, he, Option.map_some]
  rw [assignLengths_syms h, List.getElem?_take] at hsym
  exact (Option.ite_none_right_eq_some.mp hsym).2

/-- Settles O31: no codeword of a canonical table begins another, and the bits walk its tree from the root to a
codeword, out of the tree, or to a bit that cannot be read. -/
theorem canonicalCodeDecodesToItsValue : Obligations.CanonicalCodeDecodesToItsValue := by
  refine ⟨fun counts vals table k e src d d' hcounts htable he h => ?codeword,
    fun n table src bs d d₁ ht hnode h => ?node, fun s hcause => ?cause⟩
  case codeword =>
    have ht := buildCanonical_tableWf hcounts htable
    exact ⟨buildCanonical_sym htable he, decodeHuffman_of_codeword ht (List.mem_of_getElem? he) h⟩
  case node =>
    exact ⟨fun b d' => decodeHuffman_badCode ht hnode h, fun x d' => decodeHuffman_raise ht hnode h⟩
  case cause =>
    obtain ⟨-, habort, -⟩ := statusWord_codes s
    show (statusWord s).extractLsb' 16 8 = 2#8
    rw [habort, hcause]
    rfl

end Sys2Proof.Machine

/-! The rows of a DHT group (42 R161, R163 to R165): the bytes they read, what they store and how they fail. -/

namespace Sys2Proof.Machine

open Sys2Proof.Safety

variable {s : State} {ac : Bool} {th : BitVec 2} {table : HuffTable}

theorem streamByte_below {a : Nat} (h : a < s.streamLen.toNat) : s.streamByte a = some (Memory.read s.mem a) := if_pos h

/-- Bytes that all lie below STREAM_LEN are read in order (20 R61). -/
theorem readBytes_below : ∀ {n p : Nat}, p + n ≤ s.streamLen.toNat →
    readBytes s n p = .ok ((List.range n).map fun i => Memory.read s.mem (p + i))
  | 0, _, _ => rfl
  | n + 1, p, h => by
    have ih := readBytes_below (n := n) (p := p + 1) (by omega)
    simp [readBytes, streamByte_below (show p < s.streamLen.toNat by omega), ih, List.range_succ_eq_map,
      Function.comp_def, Nat.add_assoc, Nat.add_comm 1]

/-- Bytes that STREAM_LEN cuts short: the missing one is at STREAM_LEN. -/
theorem readBytes_cut : ∀ {n p : Nat}, p ≤ s.streamLen.toNat → s.streamLen.toNat < p + n →
    readBytes s n p = .error s.streamLen.toNat
  | 0, _, hp, hn => by omega
  | n + 1, p, hp, hn => by
    rcases Nat.eq_or_lt_of_le hp with heq | hlt
    · rw [readBytes, heq, State.streamByte, if_neg (Nat.lt_irrefl _)]
    · have ih := readBytes_cut (n := n) (p := p + 1) hlt (by omega)
      simp only [readBytes, streamByte_below hlt, ih]

theorem missingByte_streamLen : missingByte s.streamLen.toNat = { code := .streamEos, pos := s.streamLen } := by
  simp [missingByte]

/-- A group's 16 counts, in the bytes after the one at STREAM_POS. -/
def groupCounts (s : State) : List Nat :=
  (List.range 16).map fun i => (Memory.read s.mem (s.streamPos.toNat + 1 + i)).toNat

/-- A group's values, in the bytes after its counts. -/
def groupVals (s : State) : List Byte :=
  (List.range (groupCounts s).sum).map fun j => Memory.read s.mem (s.streamPos.toNat + 17 + j)

/-- A group whose counts are cut short (42 R161). -/
theorem dhtGroup_countsCut (hpos : s.streamPos.toNat < s.streamLen.toNat)
    (hcut : s.streamLen.toNat < s.streamPos.toNat + 17) :
    dhtGroup ac th s = .error { code := .streamEos, pos := s.streamLen } := by
  simp only [dhtGroup, readBytes_cut (n := 16) (Nat.succ_le_of_lt hpos) hcut, missingByte_streamLen]

section Counted

variable (hcounts : s.streamPos.toNat + 17 ≤ s.streamLen.toNat)

include hcounts

theorem readBytes_counts : ∃ bytes, readBytes s 16 (s.streamPos.toNat + 1) = .ok bytes ∧
    bytes.map BitVec.toNat = groupCounts s :=
  ⟨_, readBytes_below (by omega), by rw [List.map_map]; rfl⟩

/-- A group of more than HT_MAX_SYMBOLS values (42 R164). -/
theorem dhtGroup_tooMany (hmax : s.params.htMaxSymbols < (groupCounts s).sum) :
    dhtGroup ac th s = .error { code := .htInvalid, pos := BitVec.ofNat 32 (s.streamPos.toNat + 17) } := by
  obtain ⟨bytes, hread, hbytes⟩ := readBytes_counts hcounts
  simp only [dhtGroup, hread, hbytes, if_pos hmax, Nat.add_assoc, Nat.reduceAdd]

variable (hmax : (groupCounts s).sum ≤ s.params.htMaxSymbols)

include hmax

/-- A group whose values are cut short (42 R161). -/
theorem dhtGroup_valuesCut (hcut : s.streamLen.toNat < s.streamPos.toNat + 17 + (groupCounts s).sum) :
    dhtGroup ac th s = .error { code := .streamEos, pos := s.streamLen } := by
  obtain ⟨bytes, hread, hbytes⟩ := readBytes_counts hcounts
  simp only [dhtGroup, hread, hbytes, if_neg (Nat.not_lt.mpr hmax), Nat.add_assoc, Nat.reduceAdd]
  rw [readBytes_cut hcounts hcut]
  simp only [missingByte_streamLen]

end Counted

section Read

variable (hend : s.streamPos.toNat + 17 + (groupCounts s).sum ≤ s.streamLen.toNat)
  (hmax : (groupCounts s).sum ≤ s.params.htMaxSymbols)

include hend

theorem readBytes_values : readBytes s (groupCounts s).sum (s.streamPos.toNat + 17) = .ok (groupVals s) :=
  readBytes_below hend

include hmax

/-- A group whose bytes are all there, with counts that ask for too many codes (42 R163). -/
theorem dhtGroup_oversubscribed (hbuild : buildCanonical (groupCounts s) (groupVals s) = none) :
    dhtGroup ac th s = .error
      { code := .htInvalid, pos := BitVec.ofNat 32 (s.streamPos.toNat + 17 + (groupCounts s).sum) } := by
  obtain ⟨bytes, hread, hbytes⟩ := readBytes_counts (s := s) (by omega)
  simp only [dhtGroup, hread, hbytes, if_neg (Nat.not_lt.mpr hmax), Nat.add_assoc, Nat.reduceAdd,
    readBytes_values hend, hbuild]

/-- A group whose bytes are all there, with a table (42 R161). -/
theorem dhtGroup_built (hbuild : buildCanonical (groupCounts s) (groupVals s) = some table) :
    dhtGroup ac th s = .ok (
      let t := { s with streamPos := BitVec.ofNat 32 (s.streamPos.toNat + 17 + (groupCounts s).sum) }
      if ac then { t with acTab := storePut th.toNat table s.acTab }
      else { t with dcTab := storePut th.toNat table s.dcTab }) := by
  obtain ⟨bytes, hread, hbytes⟩ := readBytes_counts (s := s) (by omega)
  simp only [dhtGroup, hread, hbytes, if_neg (Nat.not_lt.mpr hmax), Nat.add_assoc, Nat.reduceAdd,
    readBytes_values hend, hbuild]

end Read

/-! The rows (30 R89). -/

/-- Both group rows run the group of their class. -/
theorem exec_dhtGroup {i : Instr} (hi : i = .dhtGroupDc th ∨ i = .dhtGroupAc th) :
    ∃ ac, exec i s = endCommand s (dhtGroup ac th s) := by
  rcases hi with rfl | rfl
  · exact ⟨false, rfl⟩
  · exact ⟨true, rfl⟩

/-- The nibbles of a byte (30 R89). -/
theorem bitsAt_nibbles : ∀ hi lo : BitVec 4, bitsAt (nibbles hi lo) 4 4 = hi ∧ bitsAt (nibbles hi lo) 0 4 = lo := by
  decide

/-- A slot number of two bits is a Th of at most 3. -/
theorem slot_of_nibble : ∀ th : BitVec 2, ¬ 3#4 < th.setWidth 4 ∧ (th.setWidth 4).setWidth 2 = th := by decide

/-- LOAD_DHT runs the row of a TcTh byte of class 0 or 1 and a slot (42 R161). -/
theorem exec_loadDht_group
    (h : s.streamByte s.streamPos.toNat = some (nibbles (if ac then 1#4 else 0#4) (th.setWidth 4))) :
    exec .loadDht s = endCommand s (dhtGroup ac th s) := by
  obtain ⟨hslot, hback⟩ := slot_of_nibble th
  obtain ⟨hclass, hth⟩ := bitsAt_nibbles (if ac then 1#4 else 0#4) (th.setWidth 4)
  show execLoadDht s = _
  simp only [execLoadDht, h, dhtByte, hclass, hth, hback, hslot, or_false]
  cases ac <;> rfl

/-- Settles O27: the group's bytes are read, its table built, and the row ends with the slot and STREAM_POS written. -/
theorem dhtGroupsReplaceTheirSlot : Obligations.DhtGroupsReplaceTheirSlot := by
  intro s th counts vals table (hcounts : counts = groupCounts s) hmax hvals hend hbuild
  subst hcounts
  rw [show vals = groupVals s from hvals] at hbuild
  have hgroup (ac : Bool) := dhtGroup_built (ac := ac) (th := th) hend hmax hbuild
  constructor
  · exact ⟨_, congrArg (endCommand s) (hgroup false),
      fun h => (exec_loadDht_group (ac := false) h).trans (congrArg (endCommand s) (hgroup false)), rfl⟩
  · exact ⟨_, congrArg (endCommand s) (hgroup true),
      fun h => (exec_loadDht_group (ac := true) h).trans (congrArg (endCommand s) (hgroup true)), rfl⟩

/-- Settles O28: the checks in order, each of which ends the row with its error on the state as it was. -/
theorem badDhtGroupsChangeNothing : Obligations.BadDhtGroupsChangeNothing := by
  refine ⟨fun s tc th => rfl, ?_⟩
  intro s th counts vals (hcounts : counts = groupCounts s) hvals hpos i hi
  subst hcounts
  rw [show vals = groupVals s from hvals]
  obtain ⟨ac, hexec⟩ := exec_dhtGroup (s := s) hi
  rw [hexec]
  refine ⟨fun hcut => ?_, fun hcounts hmax => ?_, fun hcounts hmax hcut => ?_, fun hmax hend hbuild => ?_⟩
  · rw [dhtGroup_countsCut hpos hcut]; rfl
  · rw [dhtGroup_tooMany hcounts hmax]; rfl
  · rw [dhtGroup_valuesCut hcounts hmax hcut]; rfl
  · rw [dhtGroup_oversubscribed hend hmax hbuild]; rfl

end Sys2Proof.Machine

/-! Extend (42 R168). -/

namespace Sys2Proof.Machine

/-- Settles O34: Extend by its three cases, the upper half of the n-bit numbers as it is and the lower half below 0. -/
theorem extendIsSignedAndNeverZero : Obligations.ExtendIsSignedAndNeverZero := by
  intro v n _ hv
  cases n with
  | zero => simp [extend]
  | succ n =>
    have hhalf : 0 < 2 ^ n := Nat.two_pow_pos n
    have hcast : (2 : Int) ^ (n + 1) = 2 * ((2 ^ n : Nat) : Int) := by push_cast; ring
    rw [Nat.pow_succ'] at hv
    rw [extend, if_neg n.succ_ne_zero, Nat.add_sub_cancel, hcast]
    split <;> omega

end Sys2Proof.Machine

/-! SET_FRAME's checks (43 R191), by the register that each reads. -/

namespace Sys2Proof.Machine

open Sys2Proof.Safety

variable {s : State} {c : ErrCode}

theorem getElem?_fourToList {α : Type} (f : Four α) : ∀ i : Fin 4, (fourToList f)[i.val]? = some (fourGet f i)
  | 0 | 1 | 2 | 3 => rfl

theorem getElem?_frameCompCfgs {i : Fin 4} (hi : i.val < cfgNcomp s) :
    (frameCompCfgs s)[i.val]? = some (fourGet s.compCfg i) := by
  rw [frameCompCfgs, List.getElem?_take_of_lt hi, getElem?_fourToList]

theorem length_frameCompCfgs (hn : cfgNcomp s ≤ 4) : (frameCompCfgs s).length = cfgNcomp s := by
  simp [frameCompCfgs, fourToList, hn]

theorem mem_frameCompCfgs_iff (hn : cfgNcomp s ≤ 4) {w : Word} :
    w ∈ frameCompCfgs s ↔ ∃ i : Fin 4, i.val < cfgNcomp s ∧ fourGet s.compCfg i = w := by
  constructor
  · intro h
    obtain ⟨n, hlt, rfl⟩ := List.mem_iff_getElem.mp h
    rw [length_frameCompCfgs hn] at hlt
    obtain ⟨_, hget⟩ := List.getElem?_eq_some_iff.mp (getElem?_frameCompCfgs (s := s) (i := ⟨n, by omega⟩) hlt)
    exact ⟨⟨n, by omega⟩, hlt, hget.symm⟩
  · rintro ⟨i, hi, rfl⟩
    exact List.mem_of_getElem? (getElem?_frameCompCfgs hi)

/-- No two components share an identifier. -/
theorem nodup_compCids_iff (hn : cfgNcomp s ≤ 4) : ((frameCompCfgs s).map compCid).Nodup ↔
    ∀ i : Fin 4, i.val < cfgNcomp s → ∀ j : Fin 4, j < i →
      compCid (fourGet s.compCfg j) ≠ compCid (fourGet s.compCfg i) := by
  have hget {i : Fin 4} (hi : i.val < cfgNcomp s) :
      ((frameCompCfgs s).map compCid)[i.val]? = some (compCid (fourGet s.compCfg i)) := by
    rw [List.getElem?_map, getElem?_frameCompCfgs hi, Option.map_some]
  rw [List.nodup_iff_getElem?_ne_getElem?, List.length_map, length_frameCompCfgs hn]
  constructor
  · intro h i hi j hji heq
    exact h j i hji hi (by rw [hget (Nat.lt_trans hji hi), hget hi, heq])
  · intro h j i hji hi heq
    have hj := hget (i := ⟨j, by omega⟩) (hji.trans hi)
    have hi' := hget (i := ⟨i, by omega⟩) hi
    exact h ⟨i, by omega⟩ hi ⟨j, by omega⟩ hji (Option.some.inj (hj.symm.trans (heq.trans hi')))

/-- COMP_CFGi passes checks 4 and 5: factors from 1 to 4, and no earlier component's identifier. -/
def CompCfgLegal (s : State) (i : Fin 4) : Prop :=
  1 ≤ compH (fourGet s.compCfg i) ∧ compH (fourGet s.compCfg i) ≤ 4 ∧
  1 ≤ compV (fourGet s.compCfg i) ∧ compV (fourGet s.compCfg i) ≤ 4 ∧
  ∀ j : Fin 4, j < i → compCid (fourGet s.compCfg j) ≠ compCid (fourGet s.compCfg i)

/-- The configuration registers pass checks 2 to 5, those of FRAME_PARAM. -/
def FrameCfgLegal (s : State) : Prop :=
  (1 ≤ cfgNcomp s ∧ cfgNcomp s ≤ 4) ∧ (cfgSamplesPerLine s ≠ 0 ∧ cfgScanLines s ≠ 0) ∧
  ∀ i : Fin 4, i.val < cfgNcomp s → CompCfgLegal s i

theorem compCfgsLegal_iff (hn : cfgNcomp s ≤ 4) : (∀ i : Fin 4, i.val < cfgNcomp s → CompCfgLegal s i) ↔
    (frameCompCfgs s).any (fun w => !(factorLegal (compH w) && factorLegal (compV w))) = false ∧
      ((frameCompCfgs s).map compCid).Nodup := by
  simp only [nodup_compCids_iff hn, List.any_eq_false, mem_frameCompCfgs_iff hn, CompCfgLegal, factorLegal]
  constructor
  · intro h
    constructor
    · rintro _ ⟨i, hi, rfl⟩
      obtain ⟨hh, hh4, hv, hv4, -⟩ := h i hi
      simp [hh, hh4, hv, hv4]
    · intro i hi
      obtain ⟨-, -, -, -, hcid⟩ := h i hi
      exact hcid
  · rintro ⟨hfactors, hcids⟩ i hi
    have := hfactors _ ⟨i, hi, rfl⟩
    simp only [Bool.not_eq_true', Bool.not_eq_false, Bool.and_eq_true, decide_eq_true_eq] at this
    obtain ⟨⟨hh, hh4⟩, hv, hv4⟩ := this
    exact ⟨hh, hh4, hv, hv4, hcids i hi⟩

/-- Check 1. -/
theorem checkFrame_latched (h : s.dec.frame.isSome = true) : checkFrame s = some .sequence := if_pos h

/-- Checks 2 to 5. -/
theorem checkFrame_illegal (hframe : s.dec.frame = none) (h : ¬ FrameCfgLegal s) :
    checkFrame s = some .frameParam := by
  simp only [checkFrame]
  rw [if_neg (by simp [hframe])]
  split
  · rfl
  rename_i hn
  split
  · rfl
  rename_i hsize
  split
  · rfl
  rename_i hfactors
  split
  · rfl
  · rename_i hcids
    have hcomps := (compCfgsLegal_iff (by omega)).mpr ⟨by simpa using hfactors, not_not.mp hcids⟩
    exact absurd ⟨by omega, by omega, hcomps⟩ h

/-- Check 6, and acceptance. -/
theorem checkFrame_legal (hframe : s.dec.frame = none) (h : FrameCfgLegal s) : checkFrame s =
    if (s.params.maxBlocks : Nat) < totalBlocks (mkFrame s) then some .frameTooLarge else none := by
  obtain ⟨hn, hsize, hcomps⟩ := h
  obtain ⟨hfactors, hcids⟩ := (compCfgsLegal_iff hn.2).mp hcomps
  simp only [checkFrame, hframe]
  rw [if_neg (by simp), if_neg (by omega), if_neg (by omega), hfactors, if_neg (by simp), if_neg (not_not.mpr hcids)]

/-- A check that fails ends SET_FRAME with its error at STREAM_POS. -/
theorem exec_setFrame_refused (h : checkFrame s = some c) :
    exec .setFrame s = .next (failed c s.streamPos s) := by
  show endCommand s (setFrame s) = _
  rw [setFrame, h]
  rfl

theorem exec_setFrame_accepted (h : checkFrame s = none) :
    exec .setFrame s = .next (ended { s with dec := { s.dec with frame := some (mkFrame s) } }) := by
  show endCommand s (setFrame s) = _
  rw [setFrame, h]
  rfl

/-- Settles O48: each clause fails a check, or passes those before it. -/
theorem frameChecksRefuseInOrder : Obligations.FrameChecksRefuseInOrder := by
  refine fun s => ⟨fun h => exec_setFrame_refused (checkFrame_latched h), fun hframe => ⟨fun h => ?_, ?_, ?_⟩⟩
  · refine exec_setFrame_refused (checkFrame_illegal hframe ?_)
    rintro ⟨hn, hsize, -⟩
    omega
  · intro _ i hi h
    refine exec_setFrame_refused (checkFrame_illegal hframe ?_)
    rintro ⟨-, -, hcomps⟩
    obtain ⟨hh, hh4, hv, hv4, hcid⟩ := hcomps i hi
    rcases h with h | h | h | h | ⟨j, hj, h⟩
    · omega
    · omega
    · omega
    · omega
    · exact hcid j hj h
  · intro hn hn4 hx hy hcomps
    have hcheck := checkFrame_legal hframe ⟨⟨hn, hn4⟩, ⟨hx, hy⟩, hcomps⟩
    exact ⟨fun h => exec_setFrame_refused (hcheck.trans (if_pos h)),
      fun h => hcheck.trans (if_neg (Nat.not_lt.mpr h))⟩

end Sys2Proof.Machine

/-! The geometry of a latched frame (43 R192 to R195). -/

namespace Sys2Proof.Machine

open Sys2Proof.Safety

variable {s : State} {f : Frame} {c : Comp} {scomps : List ScanComp} {m : Nat}

theorem isCeil_ceilDiv {b : Nat} (a : Nat) (hb : 0 < b) : isCeil (ceilDiv a b) a b := by
  have hdiv := Nat.div_add_mod (a + b - 1) b
  have hmod := Nat.mod_lt (a + b - 1) hb
  unfold isCeil ceilDiv
  omega

theorem ceilDiv_pos {a b : Nat} (ha : 0 < a) (hb : 0 < b) : 0 < ceilDiv a b := by
  by_contra h
  have := (ceilDiv_le_iff (a := a) hb).mp (Nat.not_lt.mp h)
  omega

/-- The largest value of `g` on a list that is not empty is the value of an element. -/
theorem exists_eq_maxOf {α : Type} (g : α → Nat) : ∀ {l : List α}, l ≠ [] → ∃ a ∈ l, g a = maxOf (l.map g)
  | [a], _ => ⟨a, List.mem_singleton_self a, (Nat.max_zero _).symm⟩
  | a :: b :: l, _ => by
    obtain ⟨d, hd, hmax⟩ := exists_eq_maxOf g (List.cons_ne_nil b l)
    rw [List.map_cons, maxOf, ← hmax]
    rcases Nat.le_total (g a) (g d) with h | h
    · exact ⟨d, List.mem_cons_of_mem a hd, (Nat.max_eq_right h).symm⟩
    · exact ⟨a, List.mem_cons_self, (Nat.max_eq_left h).symm⟩

theorem getElem?_mkFrame_comps {i : Fin 4} (hi : i.val < cfgNcomp s) : (mkFrame s).comps[i.val]? =
    some (mkComp (cfgSamplesPerLine s) (cfgScanLines s) (mkFrame s).maxH (mkFrame s).maxV (fourGet s.compCfg i)) := by
  show ((frameCompCfgs s).map _)[i.val]? = _
  rw [List.getElem?_map, getElem?_frameCompCfgs hi]
  rfl

theorem length_mkFrame_comps (hn : cfgNcomp s ≤ 4) : (mkFrame s).comps.length = cfgNcomp s := by
  show ((frameCompCfgs s).map _).length = _
  rw [List.length_map, length_frameCompCfgs hn]

/-- The largest identifier, as a number. -/
theorem toNat_mkFrame_maxCid (s : State) : (mkFrame s).maxCid.toNat = maxOf ((mkFrame s).comps.map (·.cid.toNat)) := by
  have hlt : maxOf ((frameCompCfgs s).map fun w => (compCid w).toNat) < 2 ^ 8 := by
    refine Nat.lt_succ_of_le (maxOf_le fun n hn => ?_)
    obtain ⟨w, -, rfl⟩ := List.mem_map.mp hn
    exact Nat.le_of_lt_succ (compCid w).isLt
  simpa [mkFrame, mkComp, Function.comp_def] using hlt

theorem cid_le_maxCid (hc : c ∈ (mkFrame s).comps) : c.cid ≤ (mkFrame s).maxCid := by
  rw [BitVec.le_def, toNat_mkFrame_maxCid]
  exact le_maxOf (List.mem_map_of_mem hc)

/-- Settles O49: the record is `mkFrame`'s; its maxima are attained since it has a component. -/
theorem setFrameLatchesTheGeometry : Obligations.SetFrameLatchesTheGeometry := by
  intro s hs
  obtain ⟨-, ⟨hn, hn4⟩, -⟩ := checkFrame_none hs
  have hlength := length_mkFrame_comps hn4
  have hne : (mkFrame s).comps ≠ [] := List.ne_nil_of_length_pos (by omega)
  have hwf := frameWf_mkFrame hs
  obtain ⟨⟨hmaxH, -⟩, hmaxV, -⟩ := frameWf_maxima hwf
  obtain ⟨-, -, -, hH, hV, -, -, -, hcomps, -⟩ := hwf
  have hmcuH : 0 < 8 * (mkFrame s).maxH := Nat.mul_pos (by decide) hmaxH
  have hmcuV : 0 < 8 * (mkFrame s).maxV := Nat.mul_pos (by decide) hmaxV
  refine ⟨mkFrame s, exec_setFrame_accepted hs, rfl, rfl, rfl, rfl, hlength, ?_, ?_, ?_, ?_,
    isCeil_ceilDiv _ hmcuH, isCeil_ceilDiv _ hmcuV, ?_⟩
  · intro c hc
    obtain ⟨-, -, hh, hv, -⟩ := hcomps c hc
    exact ⟨hh, hv, cid_le_maxCid hc⟩
  · rw [hH]
    exact exists_eq_maxOf _ hne
  · rw [hV]
    exact exists_eq_maxOf _ hne
  · obtain ⟨c, hc, hcid⟩ := exists_eq_maxOf (·.cid.toNat) hne
    exact ⟨c, hc, BitVec.eq_of_toNat_eq (hcid.trans (toNat_mkFrame_maxCid s).symm)⟩
  · intro i hi
    exact ⟨_, getElem?_mkFrame_comps (hlength ▸ hi), rfl, rfl, rfl, rfl,
      ⟨_, isCeil_ceilDiv _ (by decide), isCeil_ceilDiv _ hmaxH⟩,
      ⟨_, isCeil_ceilDiv _ (by decide), isCeil_ceilDiv _ hmaxV⟩, rfl, rfl, fun _ _ _ => rfl⟩

/-- A component of a well-formed frame has a block. -/
theorem frameWf_blocks_pos (h : frameWf f) (hc : c ∈ f.comps) : 0 < c.bpl ∧ 0 < c.bpc := by
  obtain ⟨⟨hmaxH, -⟩, hmaxV, -⟩ := frameWf_maxima h
  obtain ⟨-, ⟨hx, -⟩, ⟨hy, -⟩, -, -, -, -, -, hcomps, -⟩ := h
  obtain ⟨⟨hh, -⟩, ⟨hv, -⟩, -, -, -, hbpl, hbpc, -⟩ := hcomps c hc
  rw [hbpl, hbpc]
  exact ⟨ceilDiv_pos (Nat.mul_pos (ceilDiv_pos hx (by decide)) hh) hmaxH,
    ceilDiv_pos (Nat.mul_pos (ceilDiv_pos hy (by decide)) hv) hmaxV⟩

/-- Settles O50: the padded counts by the record's form, the unpadded by 43 R194's ceilings. -/
theorem paddedCountsCoverTheBlocks : Obligations.PaddedCountsCoverTheBlocks := by
  intro f c hf hc
  obtain ⟨hbpl, hbpc⟩ := frameWf_blocks_pos hf hc
  obtain ⟨hpadl, hpadc⟩ := frameWf_blocks_le_padded hf hc
  obtain ⟨-, -, -, -, -, -, -, -, hcomps, -⟩ := hf
  obtain ⟨-, -, -, -, -, -, -, hbplm, hbpcm⟩ := hcomps c hc
  exact ⟨hbplm, hbpcm, hbpl, hpadl, hbpc, hpadc⟩

/-! The blocks of a scan in order (44 R214, R218, R219). -/

/-- The block of a scan of one component lies within the unpadded counts. -/
theorem unpadded_of_mem_single {sc : ScanComp} {b : Nat × Nat × Nat} (hc : f.comps[sc.comp]? = some c)
    (hm : m < mcusExpected f [sc]) (hb : b ∈ mcuBlocks f [sc] m) : b.2.1 < c.bpc ∧ b.2.2 < c.bpl := by
  rw [mcusExpected_single hc] at hm
  rw [mcuBlocks_single hc, List.mem_singleton] at hb
  subst hb
  exact ⟨Nat.div_lt_of_lt_mul hm, Nat.mod_lt m (Nat.pos_of_mul_pos_right (Nat.zero_lt_of_lt hm))⟩

/-- The blocks of an interleaved MCU, from the list of the components that the scan names. -/
theorem interleavedBlocks_eq_flatMap (f : Frame) (mr mc : Nat) : ∀ (k : Nat) (scs : List ScanComp) (cs : List Comp),
    cs.length = scs.length → (∀ (j : Nat) (sc : ScanComp), scs[j]? = some sc → f.comps[sc.comp]? = cs[j]?) →
    interleavedBlocks f mr mc k scs = (cs.zipIdx k).flatMap fun cj => compBlocks cj.1 cj.2 mr mc
  | _, [], [], _, _ => rfl
  | k, sc :: scs, c :: cs, hlen, hcs => by
    have hc : f.comps[sc.comp]? = some c := hcs 0 sc rfl
    rw [interleavedBlocks, hc, List.zipIdx_cons, List.flatMap_cons,
      interleavedBlocks_eq_flatMap f mr mc (k + 1) scs cs (Nat.succ.inj hlen) fun j sc' h => hcs (j + 1) sc' h]

/-- Settles O51: the blocks exist (43 R196), and their order is that of `mcuBlocks`. -/
theorem scanBlocksLieInTheirComponent : Obligations.ScanBlocksLieInTheirComponent := by
  refine ⟨?_, fun f sc c m hc => ⟨mcusExpected_single hc, mcuBlocks_single hc m⟩, ?_⟩
  · intro f scomps m j row col hf _ hm hb
    obtain ⟨sc, c, hsc, hc, hrow, hcol⟩ := blockInside_of_mem_mcuBlocks hf hm hb
    refine ⟨sc, c, hsc, hc, hrow, hcol, fun hone => ?_⟩
    obtain ⟨sc', rfl⟩ := List.length_eq_one_iff.mp hone
    obtain rfl : sc' = sc := (List.mem_singleton.mp (List.mem_of_getElem? hsc)).symm
    exact unpadded_of_mem_single hc hm hb
  · intro f scomps m htwo
    match scomps with
    | sc :: sc' :: rest => exact ⟨rfl, fun cs hlen hcs => interleavedBlocks_eq_flatMap f _ _ 0 _ cs hlen hcs⟩

end Sys2Proof.Machine

/-! DECODE_SCAN's checks (44 R211), by the register that each reads. -/

namespace Sys2Proof.Machine

open Sys2Proof.Safety

variable {s : State} {f : Frame} {c : ErrCode}

/-! What a scan of the selected mode needs (30 R97, 44 R213). -/

theorem needsDc_scanModeOf (s : State) (f : Frame) : needsDc (scanModeOf s f) = true ↔
    f.progressive = false ∨ (cfgSs s = 0 ∧ cfgAh s = 0) := by
  unfold scanModeOf selectMode
  cases f.progressive <;> by_cases hss : cfgSs s = 0 <;> by_cases hah : cfgAh s = 0 <;> simp [hss, hah, needsDc]

theorem needsAc_scanModeOf (s : State) (f : Frame) : needsAc (scanModeOf s f) = true ↔
    f.progressive = false ∨ cfgSs s ≠ 0 := by
  unfold scanModeOf selectMode
  cases f.progressive <;> by_cases hss : cfgSs s = 0 <;> by_cases hah : cfgAh s = 0 <;> simp [hss, hah, needsAc]

theorem hasBand_scanModeOf (s : State) (f : Frame) : hasBand (scanModeOf s f) = true ↔
    f.progressive = true ∧ cfgSs s ≠ 0 := by
  unfold scanModeOf selectMode
  cases f.progressive <;> by_cases hss : cfgSs s = 0 <;> by_cases hah : cfgAh s = 0 <;> simp [hss, hah, hasBand]

/-! The SCAN_COMP registers. -/

theorem mem_scanCompCfgs_iff {w : Word} :
    w ∈ scanCompCfgs s ↔ ∃ j : Fin 4, j.val < cfgNs s ∧ fourGet s.scanComp j = w := by
  constructor
  · intro h
    obtain ⟨j, hj, hw⟩ := mem_scanCompCfgs h
    exact ⟨j, hj, hw.symm⟩
  · rintro ⟨j, hj, rfl⟩
    exact List.mem_of_getElem? (getElem?_scanCompCfgs s j hj)

/-- No two of the first `n` registers agree in `g`. -/
theorem nodup_map_take_fourToList {α β : Type} {n : Nat} (hn : n ≤ 4) (g : α → β) (regs : Four α) :
    (((fourToList regs).take n).map g).Nodup ↔
      ∀ i : Fin 4, i.val < n → ∀ j : Fin 4, j < i → g (fourGet regs j) ≠ g (fourGet regs i) := by
  interval_cases n <;> simp [fourToList, fourGet, Fin.forall_fin_succ] <;> tauto

theorem scanCompOk_iff (s : State) (f : Frame) (w : Word) : scanCompOk s f w = true ↔
    (∃ c ∈ f.comps, c.cid = scanCid w) ∧ scanTd w ≤ 3 ∧ scanTa w ≤ 3 ∧
    ((f.progressive = false ∨ (cfgSs s = 0 ∧ cfgAh s = 0)) → storeGet (scanTd w) s.dcTab ≠ none) ∧
    ((f.progressive = false ∨ cfgSs s ≠ 0) → storeGet (scanTa w) s.acTab ≠ none) := by
  rw [← needsDc_scanModeOf, ← needsAc_scanModeOf]
  simp only [scanCompOk, slotFull, Bool.and_eq_true, List.any_eq_true, beq_iff_eq, decide_eq_true_eq, Bool.or_eq_true,
    Bool.not_eq_true', Option.isSome_iff_ne_none, ← Bool.not_eq_true, ← imp_iff_not_or, and_assoc]

/-- Check 3 on one register: its identifier is no earlier register's, and the rest by itself. -/
theorem not_scanCompRefused_iff (s : State) (f : Frame) (j : Fin 4) : ¬ scanCompRefused s f j ↔
    (∀ j' : Fin 4, j' < j → scanCid (fourGet s.scanComp j') ≠ scanCid (fourGet s.scanComp j)) ∧
    scanCompOk s f (fourGet s.scanComp j) = true := by
  rw [scanCompOk_iff]
  simp only [scanCompRefused, not_or, not_and, not_exists, not_forall, not_lt, not_not, exists_prop]
  tauto

/-- Check 3 on all of them. -/
theorem scanCompsLegal_iff (hn : cfgNs s ≤ 4) : (∀ j : Fin 4, j.val < cfgNs s → ¬ scanCompRefused s f j) ↔
    ((scanCompCfgs s).map scanCid).Nodup ∧ (scanCompCfgs s).any (fun w => !scanCompOk s f w) = false := by
  have hnodup : ((scanCompCfgs s).map scanCid).Nodup ↔ _ := nodup_map_take_fourToList hn scanCid s.scanComp
  simp only [hnodup, not_scanCompRefused_iff, List.any_eq_false, mem_scanCompCfgs_iff, Bool.not_eq_true',
    Bool.not_eq_false]
  constructor
  · intro h
    refine ⟨fun j hj => (h j hj).1, ?_⟩
    rintro _ ⟨j, hj, rfl⟩
    exact (h j hj).2
  · rintro ⟨hcids, hok⟩ j hj
    exact ⟨hcids j hj, hok _ ⟨j, hj, rfl⟩⟩

/-- The configuration registers pass checks 2 to 4, those of SCAN_PARAM. -/
def ScanCfgLegal (s : State) (f : Frame) : Prop :=
  (1 ≤ cfgNs s ∧ cfgNs s ≤ 4) ∧ (∀ j : Fin 4, j.val < cfgNs s → ¬ scanCompRefused s f j) ∧
  (f.progressive = true → cfgSs s ≠ 0 → cfgSe s ≤ 63 ∧ cfgSs s ≤ cfgSe s)

theorem bandRefused_iff (s : State) (f : Frame) :
    (hasBand (scanModeOf s f) && (63 < cfgSe s || cfgSe s < cfgSs s)) = true ↔
      ¬ (f.progressive = true → cfgSs s ≠ 0 → cfgSe s ≤ 63 ∧ cfgSs s ≤ cfgSe s) := by
  rw [Bool.and_eq_true, hasBand_scanModeOf, Bool.or_eq_true, decide_eq_true_eq, decide_eq_true_eq]
  constructor
  · rintro ⟨⟨hp, hss⟩, hband⟩ h
    have := h hp hss
    omega
  · intro h
    simp only [not_forall, exists_prop] at h
    obtain ⟨hp, hss, hband⟩ := h
    exact ⟨⟨hp, hss⟩, by omega⟩

/-- Check 1. -/
theorem checkScan_built (h : s.built = true) : checkScan s f = some .sequence := if_pos h

/-- Checks 2 to 4. -/
theorem checkScan_illegal (hb : s.built = false) (h : ¬ ScanCfgLegal s f) : checkScan s f = some .scanParam := by
  unfold checkScan
  rw [if_neg (by simp [hb])]
  split
  · rfl
  rename_i hn
  split
  · rfl
  rename_i hcids
  split
  · rfl
  rename_i hok
  split
  · rfl
  · rename_i hband
    rw [bandRefused_iff, not_not] at hband
    have hcomps := (scanCompsLegal_iff (by omega)).mpr ⟨not_not.mp hcids, by simpa using hok⟩
    exact absurd ⟨by omega, hcomps, hband⟩ h

/-- Acceptance. -/
theorem checkScan_legal (hb : s.built = false) (h : ScanCfgLegal s f) : checkScan s f = none := by
  obtain ⟨hn, hcomps, hband⟩ := h
  obtain ⟨hcids, hok⟩ := (scanCompsLegal_iff hn.2).mp hcomps
  unfold checkScan
  rw [if_neg (by simp [hb]), if_neg (by omega), if_neg (not_not.mpr hcids), hok, if_neg (by simp),
    if_neg (by rwa [bandRefused_iff, not_not])]

/-- A check that fails ends DECODE_SCAN with its error at STREAM_POS. -/
theorem exec_decodeScan_refused (hf : s.dec.frame = some f) (h : checkScan s f = some c) :
    exec .decodeScan s = .next (failed c s.streamPos s) := by
  show execDecodeScan s = _
  unfold execDecodeScan
  simp only [hf, h]
  rfl

theorem exec_decodeScan_noFrame (hf : s.dec.frame = none) :
    exec .decodeScan s = .next (failed .sequence s.streamPos s) := by
  show execDecodeScan s = _
  unfold execDecodeScan
  rw [hf]
  rfl

/-- Settles O46: each clause fails a check, or passes them all. -/
theorem scanChecksRefuseInOrder : Obligations.ScanChecksRefuseInOrder := by
  refine fun s => ⟨fun hopen => ?_, fun f hf hb => ?_⟩
  · cases hf : s.dec.frame with
    | none => exact exec_decodeScan_noFrame hf
    | some f =>
      refine exec_decodeScan_refused hf (checkScan_built ?_)
      by_contra hbuilt
      exact hopen ⟨by simp [State.frameValid, hf], by simpa using hbuilt⟩
  · have hrefused : ¬ ScanCfgLegal s f → exec .decodeScan s = .next (failed .scanParam s.streamPos s) :=
      fun h => exec_decodeScan_refused hf (checkScan_illegal hb h)
    refine ⟨fun hn => hrefused ?_, fun _ _ j hj hcomp => hrefused ?_, fun hp hss hse => hrefused ?_,
      fun hn hn4 hcomps hband => checkScan_legal hb ⟨⟨hn, hn4⟩, hcomps, hband⟩⟩
    · rintro ⟨hn', -⟩
      omega
    · rintro ⟨-, hcomps, -⟩
      exact hcomps j hj hcomp
    · rintro ⟨-, -, hband⟩
      have := hband hp hss
      omega

end Sys2Proof.Machine

/-! The start of a restart interval (44 R217, R221). -/

namespace Sys2Proof.Machine

open Sys2Proof.Safety

variable {d : Decoder} {c : Comp} {j : Nat}

theorem resetPreds_frame : ∀ (scs : List ScanComp) (d : Decoder),
    resetPreds scs d = { d with frame := (resetPreds scs d).frame }
  | [], _ => rfl
  | sc :: rest, d => by
    rw [resetPreds, resetPreds_frame rest, modifyComp_frame]

/-- A component that the scan names has its predictor reset, however often it is named. -/
theorem frameComp_resetPreds_named : ∀ {scs : List ScanComp} {d : Decoder} {c : Comp}, (∃ sc ∈ scs, sc.comp = j) →
    frameComp d j = some c → frameComp (resetPreds scs d) j = some { c with pred := 0#32 }
  | sc :: rest, d, c, hnamed, hc => by
    have hfirst : frameComp (modifyComp sc.comp (fun c => { c with pred := 0#32 }) d) j =
        some (if sc.comp = j then { c with pred := 0#32 } else c) := by
      rw [frameComp_modifyComp, hc]
      split <;> rfl
    by_cases hrest : ∃ sc ∈ rest, sc.comp = j
    · rw [resetPreds, frameComp_resetPreds_named hrest hfirst]
      split <;> rfl
    · have hj : sc.comp = j := by
        obtain ⟨sc', hmem, hsc'⟩ := hnamed
        rcases List.mem_cons.mp hmem with rfl | hmem
        · exact hsc'
        · exact absurd ⟨sc', hmem, hsc'⟩ hrest
      rw [resetPreds, frameComp_resetPreds rest _ fun sc' h h' => hrest ⟨sc', h, h'⟩, hfirst, if_pos hj]

/-- Settles O45: RSTn with MCUs left starts the next interval, which resets the predictors its scan names. -/
theorem restartsResetThePredictors : Obligations.RestartsResetThePredictors := by
  refine ⟨fun s n ho hmore => ?_, fun d => ⟨rfl, rfl, rfl, fun j c hc => ⟨fun hnamed => ?_, fun hother => ?_⟩, ?_⟩⟩
  · refine (restartMarker_eq _ s).trans ?_
    rw [if_pos (scanOpen_iff.mp ho), if_pos hmore]
    rfl
  · exact frameComp_resetPreds_named hnamed hc
  · exact (frameComp_resetPreds d.scomps d hother).trans hc
  · rw [startInterval, resetPreds_frame]

end Sys2Proof.Machine

/-! Correction bits (44 R232) and DC_FIRST blocks (44 R228). -/

namespace Sys2Proof.Machine

open Sys2Proof.Safety

variable {s : State} {d d' : Decoder} {c : Comp} {bs : List Bool} {n : Nat}

/-! The two forms of AC_REFINE_MODE. -/

theorem refine_false (m : RefineMode) (v : Coef) (al : Nat) : refine m v false al = v := by
  cases m <;> simp [refine]

theorem refine_add_of_pos {v : Coef} (hv : 0 < v.toInt) (b : Bool) (al : Nat) :
    refine .add v b al = refine .magnitude v b al := by
  cases b with
  | false => rw [refine_false, refine_false]
  | true => exact (if_pos hv).symm

theorem refineHere_at (m : RefineMode) (b : Bool) (hz : zigzag d.k = some n) :
    refineHere m b d = .ok () { blkSet n (refine m (blkGet n d) b d.al) d with k := d.k + 1 } := by
  simp only [refineHere, withPosition, hz]

/-- Settles O40: the bit's row refines the coefficient at k, by the form that AC_REFINE_MODE selects. -/
theorem correctionBitsRefine : Obligations.CorrectionBitsRefine := by
  refine ⟨fun s b n hi ho hb hz => ?_, fun v b al hv => refine_add_of_pos hv b al⟩
  obtain ⟨c, hc, hrising⟩ := curComp_of_blockHere hi hb
  have hcoef := (blkGet_blkSet hc hrising n n (refine s.params.refineMode (blkGet n s.dec) b s.dec.al)).trans (if_pos rfl)
  refine ⟨_, (runRule_congr (onBlock_of_here hb)).trans (runRule_ok ho (refineHere_at _ b hz)),
    fun hm => hcoef.trans (by rw [hm]; rfl), fun _ hb => hcoef.trans (by rw [hb, refine_false]),
    fun hm hb => hcoef.trans (by rw [hm, hb]; rfl), onlyCoef_blkSet _ (zigzag_lt hz).2 s.dec, rfl,
    curPred_blkSet _ _ _, ?_⟩
  rw [blkSet_frame]

/-! The DC difference. -/

/-- The predictor's new value in the predictor and in coefficient 0 (44 R227, R228). -/
theorem dcWritten_spec (p : Coef) (hc : curComp d = some c) (hrising : Store.rising c.coefs) :
    curPred (blkSet 0 p (setCurPred p d)) = p ∧ blkGet 0 (blkSet 0 p (setCurPred p d)) = p ∧
    onlyCoef 0 d (blkSet 0 p (setCurPred p d)) := by
  have hpred : curComp (setCurPred p d) = some { c with pred := p } :=
    (curComp_modifyCur _ _).trans (congrArg (Option.map _) hc)
  refine ⟨?_, ?_, onlyCoef_blkSet_setCurPred _ _ (by decide) d⟩
  · rw [curPred_blkSet, curPred_setCurPred hc]
  · rw [blkGet_blkSet hpred hrising, if_pos rfl]

theorem dcWritten_frame (p : Coef) (d : Decoder) :
    blkSet 0 p (setCurPred p d) = { d with frame := (blkSet 0 p (setCurPred p d)).frame } := by
  rw [blkSet_frame, setCurPred_frame]

theorem dcSymbol_of_delivers {src : Nat → Option Byte} {t : Byte} (sh : Nat) (ht : t.toNat ≤ 15)
    (hn : bs.length = t.toNat) (h : delivers src bs d d') : dcSymbol src sh t d =
      .ok () (blkSet 0 (curPred d' + (fieldValue bs <<< sh)) (setCurPred (curPred d' + (fieldValue bs <<< sh)) d')) :=
  (if_neg (Nat.not_lt.mpr ht)).trans (dcCategory_of_delivers sh hn h)

theorem withTable_bound {t : Option HuffTable} {table : HuffTable} (ht : t = some table) (d : Decoder)
    (f : HuffTable → Res Unit) : withTable t d f = f table := by rw [ht]; rfl

theorem sameButReader_of_decodeHuffman {src : Nat → Option Byte} {table : HuffTable} {t : Byte}
    (h : decodeHuffman src table d = .ok t d') : SameButReader d d' := (decodeHuffman_frame src table d).of_ok h

/-- A DC_FIRST block: the symbol's category, and its difference (44 R228). -/
theorem dcFirstBlock_of_delivers {src : Nat → Option Byte} {table : HuffTable} {t : Byte} {d₁ : Decoder}
    (htable : curDc d = some table) (hsymbol : decodeHuffman src table d = .ok t d₁) (ht : t.toNat ≤ 15)
    (hn : bs.length = t.toNat) (h : delivers src bs d₁ d') : dcFirstBlock src d = .ok () (blkSet 0
      (curPred d + (fieldValue bs <<< d.al)) (setCurPred (curPred d + (fieldValue bs <<< d.al)) d')) := by
  have hreader := sameButReader_of_decodeHuffman hsymbol
  have hal : d₁.al = d.al := by rw [hreader]
  have hpred : curPred d' = curPred d := (hreader.trans (sameButReader_of_delivers h)).sameBlock.curPred
  refine (withTable_bound htable d _).trans ?_
  rw [hsymbol, Res.andThen_ok, dcSymbol_of_delivers _ ht hn h, hal, hpred]

/-- Settles O41: the block's symbol is a category, whose difference goes to the predictor and to coefficient 0. -/
theorem dcFirstBlockWritesDcOnly : Obligations.DcFirstBlockWritesDcOnly := by
  intro s table t d₁ bs d' hi ho hb htable hsymbol ht hlength hbits
  obtain ⟨c, hc, hrising⟩ := curComp_of_blockHere hi hb
  have hsame : SameBlock s.dec d' :=
    ((sameButReader_of_decodeHuffman hsymbol).trans (sameButReader_of_delivers hbits)).sameBlock
  obtain ⟨hp, hcoef, honly⟩ :=
    dcWritten_spec (curPred s.dec + (fieldValue bs <<< s.dec.al)) (hsame.curComp.trans hc) hrising
  exact ⟨_, (runMode_eq hb).trans (runRule_ok ho (dcFirstBlock_of_delivers htable hsymbol ht hlength hbits)), hp,
    hcoef.trans hp.symm, hsame.onlyCoef honly, dcWritten_frame _ _⟩

end Sys2Proof.Machine

/-! The AC loop of BASELINE and AC_FIRST (44 R227, R230), pass by pass to its ends. -/

namespace Sys2Proof.Machine

open Sys2Proof.Safety

variable {s : State} {src : Nat → Option Byte} {table : HuffTable} {rs : Byte} {d d' d₁ e e' : Decoder} {a : AcKind}
  {limit sh : Nat} {bs : List Bool}

/-! A symbol is decoded alike in any decoder with the same reader. -/

theorem huffmanFrom_withReader (d : Decoder) {sym : Byte} : ∀ {fuel len code : Nat} {e : Decoder},
    huffmanFrom src table fuel len code e = .ok sym e' →
    huffmanFrom src table fuel len code (d.withReader e) = .ok sym (d.withReader e')
  | fuel + 1, len, code, e, h => by
    rw [huffmanFrom] at h ⊢
    cases hbit : readBit src e with
    | raise x e₁ => rw [hbit] at h; cases h
    | ok b e₁ =>
      rw [hbit, Res.andThen_ok] at h
      rw [readBit_withReader d hbit, Res.andThen_ok]
      cases hsym : tableSymbol (len + 1) (2 * code + b.toNat) table with
      | some sym' =>
        simp only [hsym] at h ⊢
        cases h
        rfl
      | none =>
        simp only [hsym] at h ⊢
        split_ifs at h ⊢
        exact huffmanFrom_withReader d h

theorem decodeHuffman_withReader (d : Decoder) {sym : Byte} (h : decodeHuffman src table e = .ok sym e') :
    decodeHuffman src table (d.withReader e) = .ok sym (d.withReader e') := huffmanFrom_withReader d h

/-! The three sorts of AC symbol (30 R92). -/

theorem nibbles_of_acSymbol : ∀ rs : Byte, fieldNat rs 4 4 = rs.toNat / 16 ∧ fieldNat rs 0 4 = rs.toNat % 16 ∧
    (rs &&& 0x0F#8 = 0#8 ↔ rs.toNat % 16 = 0) ∧ (rs = 0xF0#8 ↔ rs.toNat % 16 = 0 ∧ rs.toNat / 16 = 15) := by decide

theorem acSymbol_zrl (src : Nat → Option Byte) (a : AcKind) (d : Decoder) :
    acSymbol src a 0xF0#8 d = acRun16 a d := rfl

theorem acSymbol_eob (h : rs &&& 0x0F#8 = 0#8) (hzrl : rs ≠ 0xF0#8) (a : AcKind) (d : Decoder) :
    acSymbol src a rs d = acEob src a (rs.toNat / 16) d := by
  obtain ⟨hrun, hsize, hzero, hf0⟩ := nibbles_of_acSymbol rs
  have hr : rs.toNat / 16 < 15 := by
    have := rs.isLt
    have := hzero.mp h
    have := mt hf0.mpr hzrl
    omega
  simp only [acSymbol, hrun, hsize, if_pos (hzero.mp h), if_pos hr]

theorem acSymbol_runSize (h : rs &&& 0x0F#8 ≠ 0#8) (a : AcKind) (d : Decoder) :
    acSymbol src a rs d = acRunSize src a (rs.toNat / 16) (rs.toNat % 16) d := by
  obtain ⟨hrun, hsize, hzero, -⟩ := nibbles_of_acSymbol rs
  simp only [acSymbol, hrun, hsize, if_neg (mt hzero.mpr h)]

/-! Writes outside the block. -/

theorem frame_modifyComp (j : Nat) (g : Comp → Comp) (d : Decoder) :
    (modifyComp j g d).frame = d.frame.map fun f => { f with comps := f.comps.modify j g } := by
  unfold modifyComp
  cases h : d.frame with
  | none => exact h
  | some f => rfl

/-- A coefficient's new frame depends on the block alone. -/
theorem SameBlock.frame_blkSet (h : SameBlock d d') (n : Nat) (v : Coef) :
    (blkSet n v d').frame = (blkSet n v d).frame := by
  obtain ⟨hframe, -, -, hrow, hcol⟩ := id h
  unfold blkSet modifyCur
  rw [h.curScanComp, hrow, hcol]
  cases Machine.curScanComp d with
  | none => exact hframe
  | some sc => rw [frame_modifyComp, frame_modifyComp, hframe]

/-! The loop. -/

theorem acLoop_past (h : acLimit a d < d.k) : ∀ fuel : Nat, acLoop src a table fuel d = .ok () d
  | 0 => rfl
  | _ + 1 => if_pos h

theorem acLoop_symbol (h : d.k ≤ acLimit a d) (hsymbol : decodeHuffman src table d = .ok rs d₁) (fuel : Nat) :
    acLoop src a table (fuel + 1) d =
      (acSymbol src a rs d₁).andThen fun _ d₂ => acLoop src a table fuel d₂ := by
  rw [acLoop, if_neg (Nat.not_lt.mpr h), hsymbol, Res.andThen_ok]

theorem acLoop_raise (h : d.k ≤ acLimit a d) {x : Exit} (hsymbol : decodeHuffman src table d = .raise x d₁)
    (fuel : Nat) : acLoop src a table (fuel + 1) d = .raise x d₁ := by
  rw [acLoop, if_neg (Nat.not_lt.mpr h), hsymbol]
  rfl

/-- The reading `a` of AC symbols, in `d`, places values shifted by `sh` at positions up to `limit`. -/
def PlacesBy (a : AcKind) (limit sh : Nat) (d : Decoder) : Prop :=
  (a = .baseline ∧ limit = 63 ∧ sh = 0) ∨ (a = .first ∧ limit = d.se ∧ sh = d.al)

theorem PlacesBy.limit_eq (h : PlacesBy a limit sh d) : acLimit a d = limit := by
  rcases h with ⟨rfl, rfl, -⟩ | ⟨rfl, rfl, -⟩ <;> rfl

theorem PlacesBy.zrl (h : PlacesBy a limit sh d) : acRun16 a d = .ok () { d with k := d.k + 16 } := by
  rcases h with ⟨rfl, -, -⟩ | ⟨rfl, -, -⟩ <;> rfl

theorem PlacesBy.runSize (h : PlacesBy a limit sh d) (run size : Nat) :
    acRunSize src a run size d = acPlace src limit sh run size d := by
  rcases h with ⟨rfl, rfl, rfl⟩ | ⟨rfl, rfl, rfl⟩ <;> rfl

theorem PlacesBy.of_outline (h : PlacesBy a limit sh d) (ho : d'.outline = d.outline) : PlacesBy a limit sh d' := by
  have hse : d'.se = d.se := by show d'.outline.se = d.outline.se; rw [ho]
  have hal : d'.al = d.al := by show d'.outline.al = d.outline.al; rw [ho]
  unfold PlacesBy
  rw [hse, hal]
  exact h

theorem PlacesBy.of_reader (h : PlacesBy a limit sh d) (hr : SameButReader d d') : PlacesBy a limit sh d' :=
  h.of_outline (outline_locals hr.locals)

/-! A pass. -/

theorem outline_of_acPass (h : acPass src table limit sh d d') : d'.outline = d.outline := by
  obtain ⟨-, rs, d₁, hsymbol, ⟨-, rfl⟩ | ⟨bs, d₂, n, -, -, -, -, hbits, rfl⟩⟩ := h
  · show d₁.outline = d.outline
    exact outline_locals (sameButReader_of_decodeHuffman hsymbol).locals
  · have hreader := (sameButReader_of_decodeHuffman hsymbol).trans (sameButReader_of_delivers hbits)
    show (blkSet _ _ d₂).outline = d.outline
    exact (outline_blkSet _ _ _).trans (outline_locals hreader.locals)

theorem k_lt_of_acPass (h : acPass src table limit sh d d') : d.k ≤ limit ∧ d.k < d'.k := by
  obtain ⟨hk, rs, d₁, -, ⟨-, rfl⟩ | ⟨bs, d₂, n, -, -, -, -, -, rfl⟩⟩ := h
  · exact ⟨hk, by dsimp only; omega⟩
  · exact ⟨hk, by dsimp only; omega⟩

theorem acLoop_acPass (hp : PlacesBy a limit sh d) (h : acPass src table limit sh d d') (fuel : Nat) :
    acLoop src a table (fuel + 1) d = acLoop src a table fuel d' := by
  obtain ⟨hk, rs, d₁, hsymbol, hpass⟩ := h
  have hreader := sameButReader_of_decodeHuffman hsymbol
  have hk₁ : d₁.k = d.k := by rw [hreader]
  have hp₁ := hp.of_reader hreader
  rw [acLoop_symbol (hk.trans_eq hp.limit_eq.symm) hsymbol]
  rcases hpass with ⟨rfl, rfl⟩ | ⟨bs, d₂, n, hsize, hlength, hlimit, hz, hbits, rfl⟩
  · rw [acSymbol_zrl, hp₁.zrl, hk₁, Res.andThen_ok]
  · rw [← hk₁] at hlimit hz
    have hsame : SameBlock d₂ { d₂ with k := d₁.k + rs.toNat / 16 } := ⟨rfl, rfl, rfl, rfl, rfl⟩
    rw [acSymbol_runSize hsize, hp₁.runSize, acPlace_of_delivers sh hlimit hz hlength hbits, Res.andThen_ok,
      blkSet_frame, hsame.frame_blkSet, blkSet_frame n _ d₂, hk₁]

/-- Any number of passes, each of which moves on by one position at least. -/
theorem acLoop_acPasses : ∀ {n : Nat} {d : Decoder}, PlacesBy a limit sh d → acPasses src table limit sh n d d' →
    PlacesBy a limit sh d' ∧ d.k + n ≤ d'.k ∧ (n = 0 ∨ d.k + n ≤ limit + 1) ∧
    ∀ fuel, acLoop src a table (fuel + n) d = acLoop src a table fuel d'
  | 0, d, hp, h => by
    cases h
    exact ⟨hp, Nat.le_refl _, .inl rfl, fun _ => rfl⟩
  | n + 1, d, hp, ⟨d₁, hpass, hrest⟩ => by
    obtain ⟨hk, hlt⟩ := k_lt_of_acPass hpass
    obtain ⟨hp', hle, hn, hloop⟩ := acLoop_acPasses (hp.of_outline (outline_of_acPass hpass)) hrest
    exact ⟨hp', by omega, by omega, fun fuel => (acLoop_acPass hp hpass _).trans (hloop fuel)⟩

/-- A block of at most 64 positions: the loop comes to the passes' end, with a pass left where a position is left. -/
theorem acLoop_block {n : Nat} (hp : PlacesBy a limit sh d) (hlimit : limit ≤ 63)
    (h : acPasses src table limit sh n d d') : PlacesBy a limit sh d' ∧
    ∃ fuel, (d'.k ≤ limit → fuel ≠ 0) ∧ acLoop src a table 64 d = acLoop src a table fuel d' := by
  obtain ⟨hp', hk, hn, hloop⟩ := acLoop_acPasses hp h
  refine ⟨hp', 64 - n, by omega, ?_⟩
  rw [← hloop, Nat.sub_add_cancel (by omega)]

/-! The ends. -/

theorem runRule_marker {rule : Decoder → Res Unit} {m : Half} (ho : scanOpen s)
    (h : rule s.dec = .raise (.marker m) d) : runRule s rule = .next (scanEnded m { s with dec := d }) :=
  runRule_raise ho h

/-- The loop at any point, where it has passes left as long as it has positions left. -/
theorem acLoopEnds_of_acLoop {fuel : Nat} {rule : Decoder → Res Unit} (ho : scanOpen s)
    (hrule : rule s.dec = acLoop s.streamByte a table fuel d) (hp : PlacesBy a limit sh d)
    (hfuel : d.k ≤ limit → fuel ≠ 0) : acLoopEnds s table limit d (runRule s rule) := by
  have hlimit := hp.limit_eq
  refine ⟨fun hpast => ?_, fun hk rs d₁ hsymbol hsize hpast => ?_, fun hk c d₁ hsymbol => ?_,
    fun hk m d₁ hsymbol => ?_⟩
  · exact runRule_ok ho (hrule.trans (acLoop_past (hlimit.trans_lt hpast) fuel))
  all_goals obtain ⟨fuel, rfl⟩ := Nat.exists_eq_succ_of_ne_zero (hfuel hk)
  · have hreader := sameButReader_of_decodeHuffman hsymbol
    have hk₁ : d₁.k = d.k := by rw [hreader]
    rw [← hk₁] at hpast ⊢
    refine runRule_abort ho (hrule.trans ?_)
    rw [acLoop_symbol (hk.trans_eq hlimit.symm) hsymbol, acSymbol_runSize hsize, (hp.of_reader hreader).runSize,
      acPlace_past sh hpast]
    rfl
  · exact runRule_abort ho (hrule.trans (acLoop_raise (hk.trans_eq hlimit.symm) hsymbol fuel))
  · exact runRule_marker ho (hrule.trans (acLoop_raise (hk.trans_eq hlimit.symm) hsymbol fuel))

theorem acLoop_eob (hk : d.k ≤ 63) (hsymbol : decodeHuffman src table d = .ok rs d₁) (h : rs &&& 0x0F#8 = 0#8)
    (hzrl : rs ≠ 0xF0#8) (fuel : Nat) :
    acLoop src .baseline table (fuel + 1) d = .ok () { d₁ with k := 64 } := by
  rw [acLoop_symbol (a := .baseline) hk hsymbol, acSymbol_eob h hzrl]
  exact acLoop_past (a := .baseline) (d := { d₁ with k := 64 }) (Nat.lt_succ_self 63) fuel

theorem acLoop_eobr (hk : d.k ≤ d.se) (hsymbol : decodeHuffman src table d = .ok rs d₁) (h : rs &&& 0x0F#8 = 0#8)
    (hzrl : rs ≠ 0xF0#8) (hlength : bs.length = rs.toNat / 16) (hbits : delivers src bs d₁ d') (fuel : Nat) :
    acLoop src .first table (fuel + 1) d =
      .ok () { d' with eobrun := bitsValue bs + 2 ^ bs.length - 1, k := d.se + 1 } := by
  have hse₁ : d₁.se = d.se := by rw [sameButReader_of_decodeHuffman hsymbol]
  have hse : d'.se = d₁.se := by rw [sameButReader_of_delivers hbits]
  rw [acLoop_symbol (a := .first) hk hsymbol, acSymbol_eob h hzrl, acEob_first_of_delivers hlength hbits, hlength,
    Res.andThen_ok, acLoop_past, hse₁]
  rw [← hse]
  exact Nat.lt_succ_self _

/-! The blocks. -/

/-- A BASELINE block after its DC difference is the loop from k = 1. -/
theorem baselineBlock_of_delivers {dc : HuffTable} {t : Byte} (hdc : curDc d = some dc) (hac : curAc d = some table)
    (hsymbol : decodeHuffman src dc d = .ok t d₁) (ht : t.toNat ≤ 15) (hn : bs.length = t.toNat)
    (h : delivers src bs d₁ d') : baselineBlock src d = acLoop src .baseline table 64 { blkSet 0
      (curPred d + fieldValue bs) (setCurPred (curPred d + fieldValue bs) d') with k := 1 } := by
  have hpred : curPred d' = curPred d :=
    ((sameButReader_of_decodeHuffman hsymbol).trans (sameButReader_of_delivers h)).sameBlock.curPred
  refine (withTable_bound hdc d _).trans ((withTable_bound hac d _).trans ?_)
  rw [hsymbol, Res.andThen_ok, dcSymbol_of_delivers 0 ht hn h, Res.andThen_ok, hpred, BitVec.shiftLeft_zero]

theorem acFirstBlock_of_noRun (hac : curAc d = some table) (hrun : d.eobrun = 0) :
    acFirstBlock src d = acLoop src .first table 64 { d with k := d.ss } :=
  (withTable_bound hac d _).trans (if_neg (by omega))

/-- Settles O42: the loop's passes lead where its relation says, and it ends there as the point has it. -/
theorem baselineFlatBlockWritesDcOnly : Obligations.BaselineFlatBlockWritesDcOnly := by
  refine ⟨?_, ?_, ?_⟩
  · intro s dc ac t rs d₁ bs d' d₃ a b hi ho hb hdc hac hsymbol ht hlength hbits hsymbol' hrs hzrl
    obtain ⟨c, hc, hrising⟩ := curComp_of_blockHere hi hb
    have hsame : SameBlock s.dec d' :=
      ((sameButReader_of_decodeHuffman hsymbol).trans (sameButReader_of_delivers hbits)).sameBlock
    have h₃ : SameButReader d' d₃ := sameButReader_of_decodeHuffman hsymbol'
    set p := curPred s.dec + fieldValue bs
    have hwritten := dcWritten_frame p d'
    obtain ⟨hp, hcoef, honly⟩ := dcWritten_spec p (hsame.curComp.trans hc) hrising
    have heob := decodeHuffman_withReader { blkSet 0 p (setCurPred p d') with k := 1 } hsymbol'
    have hreader : ({ blkSet 0 p (setCurPred p d') with k := 1 } : Decoder).withReader d' =
        { blkSet 0 p (setCurPred p d') with k := 1 } := by rw [hwritten]; rfl
    rw [hreader] at heob
    have hblock := (baselineBlock_of_delivers (d := { s.dec with mode := some .baseline }) hdc hac hsymbol ht hlength
      hbits).trans (acLoop_eob (show 1 ≤ 63 by decide) heob hrs hzrl 63)
    refine ⟨_, (runMode_eq hb).trans (runRule_ok ho hblock), hp, hcoef.trans hp.symm, hsame.onlyCoef honly, ?_⟩
    rw [hwritten, h₃]
    rfl
  · intro s dc ac t d₁ bs d' a b n d₂ ho hb hdc hac hsymbol ht hlength hbits hpasses
    obtain ⟨hp, fuel, hmore, hloop⟩ := acLoop_block (a := .baseline) (.inl ⟨rfl, rfl, rfl⟩) (Nat.le_refl 63) hpasses
    have hblock := (baselineBlock_of_delivers (d := { s.dec with mode := some .baseline }) hdc hac hsymbol ht hlength
      hbits).trans hloop
    have hexec : exec (.baseline a b) s = _ := runMode_eq hb
    rw [hexec]
    refine ⟨acLoopEnds_of_acLoop ho hblock hp hmore, fun rs d₃ hk hsymbol' hrs hzrl => ?_⟩
    obtain ⟨fuel, rfl⟩ := Nat.exists_eq_succ_of_ne_zero (hmore hk)
    exact runRule_ok ho (hblock.trans (acLoop_eob hk hsymbol' hrs hzrl fuel))
  · intro s ac n d₂ ho hb hac hrun hse hpasses
    obtain ⟨hp, fuel, hmore, hloop⟩ := acLoop_block (a := .first)
      (d := { s.dec with mode := some .acFirst, k := s.dec.ss }) (.inr ⟨rfl, rfl, rfl⟩) hse hpasses
    have hblock := (acFirstBlock_of_noRun (d := { s.dec with mode := some .acFirst }) hac hrun).trans hloop
    have hexec : exec .acFirst s = _ := runMode_eq hb
    rw [hexec]
    refine ⟨acLoopEnds_of_acLoop ho hblock hp hmore, fun rs d₃ es d₄ hk hsymbol' hrs hzrl hes hbits => ?_⟩
    obtain ⟨fuel, rfl⟩ := Nat.exists_eq_succ_of_ne_zero (hmore hk)
    have hse₂ : d₂.se = s.dec.se := hp.limit_eq
    rw [← hse₂] at hk ⊢
    exact runRule_ok ho (hblock.trans (acLoop_eobr hk hsymbol' hrs hzrl hes hbits fuel))

end Sys2Proof.Machine

/-! The walk of AC_SUCC over its band (44 R231, R232): each nonzero coefficient takes a bit, and the zeros count a run. -/

namespace Sys2Proof.Machine

open Sys2Proof.Safety

variable {m : RefineMode} {src : Nat → Option Byte} {table : HuffTable} {d d' d₁ e : Decoder} {bs : List Bool}
  {ns : List Nat} {n z k r : Nat} {v : Coef} {b : Bool}

/-! The natural indices of a stretch of positions (45 R263). -/

/-- Of the `n` positions from `k`. -/
def positions (k n : Nat) : List Nat := (List.range' k n).filterMap zigzag

theorem between_eq_positions (k last : Nat) : between k last = positions k (last + 1 - k) := rfl

theorem positions_succ (hz : zigzag k = some z) (n : Nat) : positions k (n + 1) = z :: positions (k + 1) n := by
  rw [positions, List.range'_succ, List.filterMap_cons_some hz]
  rfl

theorem positions_append_last (hz : zigzag (k + n) = some z) : positions k (n + 1) = positions k n ++ [z] := by
  rw [positions, List.range'_concat, List.filterMap_append, Nat.one_mul, List.filterMap_cons_some hz]
  rfl

theorem zigzag_inj {k' : Nat} (h : zigzag k = some n) (h' : zigzag k' = some n) : k = k' :=
  (List.getElem?_inj (zigzag_lt h).1 (show zigzagTable.Nodup by decide)).mp (h.trans h'.symm)

theorem mem_positions : z ∈ positions k n ↔ ∃ k', k ≤ k' ∧ k' < k + n ∧ zigzag k' = some z := by
  simp only [positions, List.mem_filterMap, List.mem_range'_1, and_assoc]

theorem nodup_positions (k n : Nat) : (positions k n).Nodup :=
  List.Nodup.filterMap (fun _ _ _ h h' => zigzag_inj h h') List.nodup_range'

theorem lt_of_mem_positions (h : z ∈ positions k n) : z < 64 := by
  obtain ⟨k', -, -, hz⟩ := mem_positions.mp h
  exact (zigzag_lt hz).2

theorem notMem_positions_succ (hz : zigzag k = some z) (n : Nat) : z ∉ positions (k + 1) n := by
  intro h
  obtain ⟨k', hk', -, hz'⟩ := mem_positions.mp h
  have := zigzag_inj hz hz'
  omega

theorem lt_of_mem_nonzerosOf (h : z ∈ nonzerosOf (positions k n) d) : z < 64 :=
  lt_of_mem_positions (List.mem_of_mem_filter h)

theorem notMem_nonzerosOf (h : blkGet z d = 0#32) (ns : List Nat) : z ∉ nonzerosOf ns d := fun hz => by
  simpa [h] using List.of_mem_filter hz

/-! Refining a list of coefficients. -/

theorem SameBlock.nonzerosOf (h : SameBlock d d') (ns : List Nat) : nonzerosOf ns d' = nonzerosOf ns d := by
  simp only [Safety.nonzerosOf, h.blkGet]

theorem SameBlock.zerosOf (h : SameBlock d d') (ns : List Nat) : zerosOf ns d' = zerosOf ns d := by
  simp only [Safety.zerosOf, h.blkGet]

theorem SameBlock.blkSet (h : SameBlock d d') (n : Nat) (v : Coef) : SameBlock (blkSet n v d) (blkSet n v d') := by
  have hframe := h.frame_blkSet n v
  obtain ⟨-, hscomps, hcomp, hrow, hcol⟩ := h
  rw [blkSet_frame n v d, blkSet_frame n v d']
  exact ⟨hframe, hscomps, hcomp, hrow, hcol⟩

theorem refined_frame (m : RefineMode) : ∀ (ns : List Nat) (bs : List Bool) (d : Decoder),
    refined m ns bs d = { d with frame := (refined m ns bs d).frame }
  | [], _, _ => rfl
  | _ :: _, [], _ => rfl
  | n :: ns, b :: bs, d => by rw [refined, refined_frame m ns bs, blkSet_frame]

/-- The refined frame depends on the block and AL alone. -/
theorem SameBlock.frame_refined (m : RefineMode) : ∀ {d d' : Decoder} (_ : SameBlock d d') (_ : d'.al = d.al)
    (ns : List Nat) (bs : List Bool), (refined m ns bs d').frame = (refined m ns bs d).frame
  | _, _, h, _, [], _ => h.1
  | _, _, h, _, _ :: _, [] => h.1
  | d, d', h, hal, n :: ns, b :: bs => by
    rw [refined, refined, h.blkGet, hal]
    refine SameBlock.frame_refined m (h.blkSet n _) ?_ ns bs
    rw [blkSet_frame n _ d, blkSet_frame n _ d']
    exact hal

theorem blkGet_blkSet_other (hn : n < 64) (hz : z ≠ n) (v : Coef) (d : Decoder) :
    blkGet z (blkSet n v d) = blkGet z d := by
  obtain ⟨-, hblock, -, -⟩ := onlyCoef_blkSet v hn d
  exact hblock z hz

theorem blkGet_refined_other (m : RefineMode) : ∀ (ns : List Nat) (bs : List Bool) (d : Decoder),
    (∀ n ∈ ns, n < 64) → z ∉ ns → blkGet z (refined m ns bs d) = blkGet z d
  | [], _, _, _, _ => rfl
  | _ :: _, [], _, _, _ => rfl
  | n :: ns, b :: bs, d, hns, hz => by
    obtain ⟨hne, hz⟩ := not_or.mp (mt List.mem_cons.mpr hz)
    rw [refined, blkGet_refined_other m ns bs _ (fun x hx => hns x (by simp [hx])) hz,
      blkGet_blkSet_other (hns n (by simp)) hne]

/-! Runs of zeros (44 R231). -/

/-- In state `st` with run `r`, `z` zeros are passed before the run ends the state or takes its value. -/
def RunLasts (z r : Nat) : AcState → Prop
  | .initial => False
  | .skipZrl => z < r
  | .skipRun => 1 ≤ r ∧ z ≤ r
  | .setValue => z = 0
  | .eobRun => True

/-- The run left after `z` such zeros. -/
def runLeft (z r : Nat) : AcState → Nat
  | .skipZrl => r - z
  | .skipRun => r - z
  | .initial => r
  | .setValue => r
  | .eobRun => r

/-- The state after them. -/
def runState (z r : Nat) : AcState → AcState
  | .skipRun => if r - z = 0 then .setValue else .skipRun
  | .initial => .initial
  | .skipZrl => .skipZrl
  | .setValue => .setValue
  | .eobRun => .eobRun

theorem RunLasts.ne_initial {st : AcState} (h : RunLasts z r st) : st ≠ .initial := by
  rintro rfl
  exact h

theorem RunLasts.zero {st : AcState} (h : RunLasts 0 r st) : runLeft 0 r st = r ∧ runState 0 r st = st := by
  cases st with
  | skipRun => exact ⟨rfl, if_neg (Nat.one_le_iff_ne_zero.mp h.1)⟩
  | initial | skipZrl | setValue | eobRun => exact ⟨rfl, rfl⟩

/-- One zero of several. -/
theorem RunLasts.succ {st : AcState} (h : RunLasts (z + 1) r st) :
    RunLasts z (runLeft 1 r st) (runState 1 r st) ∧
    runLeft z (runLeft 1 r st) (runState 1 r st) = runLeft (z + 1) r st ∧
    runState z (runLeft 1 r st) (runState 1 r st) = runState (z + 1) r st := by
  cases st with
  | initial => exact h.elim
  | setValue => exact absurd h (Nat.succ_ne_zero z)
  | eobRun => exact ⟨trivial, rfl, rfl⟩
  | skipZrl =>
    have hz : z + 1 < r := h
    exact ⟨show z < r - 1 by omega, show r - 1 - z = r - (z + 1) by omega, rfl⟩
  | skipRun =>
    obtain ⟨hr, hz⟩ := h
    by_cases hlast : r - 1 = 0
    · obtain rfl : z = 0 := by omega
      simp [RunLasts, runLeft, runState, hlast]
    · simp only [RunLasts, runLeft, runState, if_neg hlast]
      exact ⟨⟨by omega, by omega⟩, by omega, if_congr (by omega) rfl rfl⟩

/-! One position. -/

/-- `e` with what passing a zero at position k of `d` writes. -/
def zeroPassed (d e : Decoder) : Decoder :=
  { e with k := d.k + 1, r := runLeft 1 d.r d.acState, acState := runState 1 d.r d.acState }

/-- `e` with what refining coefficient `n` to `v` at position k of `d` writes. -/
def valueRefined (n : Nat) (v : Coef) (d e : Decoder) : Decoder :=
  { e with frame := (blkSet n v d).frame, k := d.k + 1 }

theorem valueRefined_block (n : Nat) (v : Coef) (h : SameButReader d e) :
    SameBlock (blkSet n v d) (valueRefined n v d e) := by
  rw [valueRefined, h, blkSet_frame]
  exact ⟨rfl, rfl, rfl, rfl, rfl⟩

theorem acVisit_nonzero (hz : zigzag d.k = some n) (hn : blkGet n d ≠ 0#32) (hbit : readBit src d = .ok b d₁) :
    acVisit m src d = .ok () (valueRefined n (refine m (blkGet n d) b d.al) d d₁) := by
  have hreader : SameButReader d d₁ := (readBit_frame src d).of_ok hbit
  have hk : d₁.k = d.k := by rw [hreader]
  have hal : d₁.al = d.al := by rw [hreader]
  unfold acVisit withPosition
  rw [hz]
  refine (if_pos hn).trans ?_
  rw [hbit, Res.andThen_ok, refineHere_at m b (hk ▸ hz), hreader.sameBlock.blkGet, blkSet_frame,
    hreader.sameBlock.frame_blkSet, hk, hal, valueRefined, ← hal]

theorem acVisit_zero (hz : zigzag d.k = some n) (hn : blkGet n d = 0#32) (hrun : RunLasts (z + 1) d.r d.acState) :
    acVisit m src d = .ok () (zeroPassed d d) := by
  unfold acVisit withPosition zeroPassed
  rw [hz]
  refine (if_neg (not_not.mpr hn)).trans ?_
  cases hst : d.acState with
  | initial => exact absurd hst hrun.ne_initial
  | setValue => rw [hst] at hrun; exact absurd hrun (Nat.succ_ne_zero z)
  | eobRun | skipRun => rfl
  | skipZrl =>
    rw [hst] at hrun
    have hr : d.r - 1 ≠ 0 := by unfold RunLasts at hrun; omega
    simp only [if_neg hr]
    rfl

/-- The last zero of a ZRL. -/
theorem acVisit_zrlEnd (hz : zigzag d.k = some n) (hn : blkGet n d = 0#32) (hst : d.acState = .skipZrl) (hr : d.r = 1) :
    acVisit m src d = .ok () { d with k := d.k + 1, r := 0, acState := .initial } := by
  unfold acVisit withPosition
  rw [hz]
  refine (if_neg (not_not.mpr hn)).trans ?_
  simp only [hst, hr]
  rfl

/-- The zero that takes the pending value. -/
theorem acVisit_place (hz : zigzag d.k = some n) (hn : blkGet n d = 0#32) (hst : d.acState = .setValue) :
    acVisit m src d = .ok () { d with
      frame := (blkSet n (d.acNext <<< d.al) d).frame, k := d.k + 1, acState := .initial } := by
  have hsame : SameBlock d { d with acState := .initial } := ⟨rfl, rfl, rfl, rfl, rfl⟩
  unfold acVisit withPosition
  rw [hz]
  refine (if_neg (not_not.mpr hn)).trans ?_
  simp only [hst, placeAt, withPosition, hz]
  rw [blkSet_frame, hsame.frame_blkSet]

/-! The loop. -/

theorem acSuccLoop_past (h : d.se < d.k) : ∀ fuel : Nat, acSuccLoop m src table fuel d = .ok () d
  | 0 => rfl
  | _ + 1 => if_pos h

theorem acSuccSymbol_of_run (h : d.acState ≠ .initial) : acSuccSymbol src table d = .ok () d := if_neg h

theorem acSuccLoop_visit (hk : d.k ≤ d.se) (hst : d.acState ≠ .initial) (hvisit : acVisit m src d = .ok () d')
    (fuel : Nat) : acSuccLoop m src table (fuel + 1) d = acSuccLoop m src table fuel d' := by
  rw [acSuccLoop, if_neg (Nat.not_lt.mpr hk), acSuccSymbol_of_run hst, Res.andThen_ok, hvisit, Res.andThen_ok]

/-- The decoder after a walk from `d` over `n` positions that pass `z` zeros, its bits read in `d'`. -/
def walked (m : RefineMode) (n : Nat) (bs : List Bool) (d d' : Decoder) : Decoder :=
  let z := (zerosOf (positions d.k n) d).length
  { d' with
    frame := (refined m (nonzerosOf (positions d.k n) d) bs d').frame
    k := d.k + n, r := runLeft z d.r d.acState, acState := runState z d.r d.acState }

theorem walked_eq {f : Option Frame} {st : AcState}
    (hframe : (refined m (nonzerosOf (positions d.k n) d) bs d').frame = f) (hk : d.k + n = k)
    (hr : runLeft (zerosOf (positions d.k n) d).length d.r d.acState = r)
    (hst : runState (zerosOf (positions d.k n) d).length d.r d.acState = st) :
    walked m n bs d d' = { d' with frame := f, k := k, r := r, acState := st } := by
  subst hframe hk hr hst
  rfl

theorem positions_of_zero (hz : zigzag d.k = some z) (hzero : blkGet z d = 0#32) (n : Nat) :
    zerosOf (positions d.k (n + 1)) d = z :: zerosOf (positions (d.k + 1) n) d ∧
    nonzerosOf (positions d.k (n + 1)) d = nonzerosOf (positions (d.k + 1) n) d := by
  rw [positions_succ hz]
  exact ⟨List.filter_cons_of_pos (by simpa using hzero), List.filter_cons_of_neg (by simpa using hzero)⟩

theorem positions_of_nonzero (hz : zigzag d.k = some z) (hzero : blkGet z d ≠ 0#32) (n : Nat) :
    zerosOf (positions d.k (n + 1)) d = zerosOf (positions (d.k + 1) n) d ∧
    nonzerosOf (positions d.k (n + 1)) d = z :: nonzerosOf (positions (d.k + 1) n) d := by
  rw [positions_succ hz]
  exact ⟨List.filter_cons_of_neg (by simpa using hzero), List.filter_cons_of_pos (by simpa using hzero)⟩

/-- What is left of a walk after a zero. -/
theorem walked_zero (hz : zigzag d.k = some z) (hzero : blkGet z d = 0#32)
    (hrun : RunLasts ((zerosOf (positions (d.k + 1) n) d).length + 1) d.r d.acState) :
    walked m (n + 1) bs d d' = walked m n bs (zeroPassed d d) (zeroPassed d d') := by
  obtain ⟨hzeros, hnonzeros⟩ := positions_of_zero hz hzero n
  obtain ⟨-, hr, hst⟩ := RunLasts.succ hrun
  have hsame : SameBlock d (zeroPassed d d) := ⟨rfl, rfl, rfl, rfl, rfl⟩
  have hsame' : SameBlock d' (zeroPassed d d') := ⟨rfl, rfl, rfl, rfl, rfl⟩
  refine walked_eq ?_ (show d.k + (n + 1) = d.k + 1 + n by omega) ?_ ?_
  · rw [hnonzeros, hsame.nonzerosOf, hsame'.frame_refined m rfl]
    rfl
  · rw [hzeros, hsame.zerosOf]
    exact hr.symm
  · rw [hzeros, hsame.zerosOf]
    exact hst.symm

/-- A refined coefficient is passed for good: the positions after it hold what they held. -/
theorem positions_valueRefined (hz : zigzag d.k = some z) (v : Coef) (hreader : SameButReader d e) (n : Nat) :
    zerosOf (positions (d.k + 1) n) (valueRefined z v d e) = zerosOf (positions (d.k + 1) n) d ∧
    nonzerosOf (positions (d.k + 1) n) (valueRefined z v d e) = nonzerosOf (positions (d.k + 1) n) d := by
  have hget : ∀ x ∈ positions (d.k + 1) n, blkGet x (valueRefined z v d e) = blkGet x d := fun x hx =>
    ((valueRefined_block z v hreader).blkGet x).trans
      (blkGet_blkSet_other (zigzag_lt hz).2 (fun h => notMem_positions_succ hz n (h ▸ hx)) v d)
  exact ⟨List.filter_congr fun x hx => by rw [hget x hx], List.filter_congr fun x hx => by rw [hget x hx]⟩

/-- What is left of a walk after a nonzero coefficient. -/
theorem walked_nonzero (hz : zigzag d.k = some z) (hzero : blkGet z d ≠ 0#32) (hreader : SameButReader d d₁)
    (hbits : SameButReader d₁ d') : walked m (n + 1) (b :: bs) d d' = walked m n bs
      (valueRefined z (refine m (blkGet z d) b d.al) d d₁) (valueRefined z (refine m (blkGet z d) b d.al) d d') := by
  obtain ⟨hzeros, hnonzeros⟩ := positions_of_nonzero hz hzero n
  set v := refine m (blkGet z d) b d.al
  obtain ⟨hzeros', hnonzeros'⟩ := positions_valueRefined hz v hreader n
  have hreader' := hreader.trans hbits
  have hal : d'.al = d.al := by rw [hreader']
  have hr : (valueRefined z v d d₁).r = d.r := by rw [valueRefined, hreader]
  have hst : (valueRefined z v d d₁).acState = d.acState := by rw [valueRefined, hreader]
  refine walked_eq ?_ (show d.k + (n + 1) = d.k + 1 + n by omega) ?_ ?_
  · have hsame : SameBlock (blkSet z v d') (valueRefined z v d d') := by
      rw [valueRefined, blkSet_frame, hreader'.sameBlock.frame_blkSet]
      exact ⟨rfl, rfl, rfl, rfl, rfl⟩
    have hal' : (valueRefined z v d d').al = (blkSet z v d').al := by rw [blkSet_frame]; rfl
    rw [hnonzeros, refined, hreader'.sameBlock.blkGet, hal, ← hsame.frame_refined m hal', ← hnonzeros']
    rfl
  · rw [hzeros, hr, hst, ← hzeros']
    rfl
  · rw [hzeros, hr, hst, ← hzeros']
    rfl

theorem acSuccLoop_walk : ∀ {n : Nat} {d d' : Decoder} {bs : List Bool}, d.k + n ≤ d.se + 1 → d.k + n ≤ 64 →
    bs.length = (nonzerosOf (positions d.k n) d).length → delivers src bs d d' →
    RunLasts (zerosOf (positions d.k n) d).length d.r d.acState → ∀ fuel,
    acSuccLoop m src table (fuel + n) d = acSuccLoop m src table fuel (walked m n bs d d')
  | 0, d, d', bs, _, _, hlength, hbits, hrun, fuel => by
    obtain rfl := List.length_eq_zero_iff.mp hlength
    cases hbits
    obtain ⟨hr, hst⟩ := RunLasts.zero hrun
    exact congrArg (acSuccLoop m src table fuel) (walked_eq (d := d) (n := 0) rfl rfl hr hst).symm
  | n + 1, d, d', bs, hse, h64, hlength, hbits, hrun, fuel => by
    obtain ⟨z, hz⟩ := zigzag_isSome (k := d.k) (by omega)
    have hk : d.k ≤ d.se := by omega
    have hst := hrun.ne_initial
    by_cases hzero : blkGet z d = 0#32
    · obtain ⟨hzeros, hnonzeros⟩ := positions_of_zero hz hzero n
      rw [hzeros, List.length_cons] at hrun
      obtain ⟨hrun', -, -⟩ := RunLasts.succ hrun
      have hbits' := delivers_update (g := zeroPassed d) (fun _ _ => rfl) hbits
      rw [← Nat.add_assoc, acSuccLoop_visit hk hst (acVisit_zero hz hzero hrun), walked_zero hz hzero hrun]
      rw [hnonzeros] at hlength
      exact acSuccLoop_walk (show d.k + 1 + n ≤ d.se + 1 by omega) (show d.k + 1 + n ≤ 64 by omega) hlength hbits' hrun'
        fuel
    · obtain ⟨hzeros, hnonzeros⟩ := positions_of_nonzero hz hzero n
      rw [hnonzeros] at hlength
      obtain ⟨b, bs, rfl⟩ := List.exists_cons_of_length_eq_add_one hlength
      obtain ⟨d₁, hbit, hbits⟩ := hbits
      have hreader : SameButReader d d₁ := (readBit_frame src d).of_ok hbit
      set v := refine m (blkGet z d) b d.al
      obtain ⟨hzeros', hnonzeros'⟩ := positions_valueRefined hz v hreader n
      have hbits' := delivers_update (g := valueRefined z v d) (fun _ _ => rfl) hbits
      rw [← Nat.add_assoc, acSuccLoop_visit hk hst (acVisit_nonzero hz hzero hbit),
        walked_nonzero hz hzero hreader (sameButReader_of_delivers hbits)]
      have hse₁ : d₁.se = d.se := by rw [hreader]
      have hr : d₁.r = d.r := by rw [hreader]
      have hst₁ : d₁.acState = d.acState := by rw [hreader]
      rw [hzeros, ← hzeros', ← hr, ← hst₁] at hrun
      exact acSuccLoop_walk (show d.k + 1 + n ≤ d₁.se + 1 by omega) (show d.k + 1 + n ≤ 64 by omega)
        ((Nat.succ.inj hlength).trans (congrArg _ hnonzeros').symm) hbits' hrun fuel

end Sys2Proof.Machine

/-! AC_SUCC blocks (44 R231, R233): symbol by symbol, each run walked to its end or to the band's. -/

namespace Sys2Proof.Machine

open Sys2Proof.Safety

variable {m : RefineMode} {src : Nat → Option Byte} {table : HuffTable} {s : State} {d d' d₁ e : Decoder}
  {bs es : List Bool} {n z : Nat} {v : Coef} {b sign : Bool} {rs : Byte} {g : Decoder → Decoder}

/-! The symbol (30 R92, R93). -/

/-- What a symbol writes before the walk goes on: the run, the pending value and eobrun. -/
structure StartsRun (g : Decoder → Decoder) : Prop where
  reader : ∀ d e : Decoder, g (d.withReader e) = (g d).withReader e
  locals : ∀ d, g d = { d with
    eobrun := (g d).eobrun, acState := (g d).acState, acNext := (g d).acNext, r := (g d).r }

/-- EOBr of a run of `r` bits that write a number giving `eobrun`. -/
def eobrStarted (r eobrun : Nat) (d : Decoder) : Decoder := { d with r := r, eobrun := eobrun, acState := .eobRun }

/-- RUN/SIZE of size 1. -/
def valuePending (run : Nat) (v : Coef) (d : Decoder) : Decoder :=
  { d with r := run, acNext := v, acState := if run = 0 then .setValue else .skipRun }

/-- ZRL. -/
def zrlStarted (d : Decoder) : Decoder := { d with r := 16, acState := .skipZrl }

theorem startsRun_eobr (r eobrun : Nat) : StartsRun (eobrStarted r eobrun) := ⟨fun _ _ => rfl, fun _ => rfl⟩
theorem startsRun_value (run : Nat) (v : Coef) : StartsRun (valuePending run v) := ⟨fun _ _ => rfl, fun _ => rfl⟩
theorem startsRun_zrl : StartsRun zrlStarted := ⟨fun _ _ => rfl, fun _ => rfl⟩

theorem acSuccSymbol_initial (hst : d.acState = .initial) (hsymbol : decodeHuffman src table d = .ok rs d₁) :
    acSuccSymbol src table d = acSymbol src .succ rs d₁ := by
  rw [acSuccSymbol, if_pos hst, hsymbol, Res.andThen_ok]

theorem acSymbol_succ_eobr (h : rs &&& 0x0F#8 = 0#8) (hzrl : rs ≠ 0xF0#8) (hlength : es.length = rs.toNat / 16)
    (hbits : delivers src es d d') :
    acSymbol src .succ rs d = .ok () (eobrStarted es.length (bitsValue es + 2 ^ es.length) d') := by
  rw [acSymbol_eob h hzrl, acEob_succ_of_delivers hlength hbits, hlength]
  rfl

/-- The size of a symbol in its low nibble. -/
theorem acSymbol_size : ∀ rs : Byte, (rs &&& 0x0F#8 = 1#8 ↔ rs.toNat % 16 = 1) ∧
    (1#8 < rs &&& 0x0F#8 ↔ 1 < rs.toNat % 16) := by decide

theorem acSymbol_succ_value (h : rs &&& 0x0F#8 = 1#8) (hbit : readBit src d = .ok sign d') :
    acSymbol src .succ rs d = .ok () (valuePending (rs.toNat / 16) (if sign then 1#32 else -1#32) d') := by
  obtain ⟨hone, -⟩ := acSymbol_size rs
  rw [acSymbol_runSize (by rw [h]; decide), hone.mp h]
  exact acPend_of_delivers (rs.toNat / 16) ⟨d', hbit, rfl⟩

theorem acSymbol_succ_badSize (h : 1#8 < rs &&& 0x0F#8) :
    acSymbol src .succ rs d = .raise (.abort .badRefineSize) { d with r := rs.toNat / 16 } := by
  obtain ⟨-, hmore⟩ := acSymbol_size rs
  have hsize := hmore.mp h
  rw [acSymbol_runSize (by rintro h0; rw [h0] at h; revert h; decide)]
  exact if_pos (by omega)

theorem acSuccLoop_symbol (hk : d.k ≤ d.se) (hsymbol : acSuccSymbol src table d = .ok () e) (hk' : e.k = d.k)
    (hse : e.se = d.se) (hst : e.acState ≠ .initial) (fuel : Nat) :
    acSuccLoop m src table (fuel + 1) d = acSuccLoop m src table (fuel + 1) e := by
  rw [acSuccLoop, acSuccLoop, if_neg (Nat.not_lt.mpr hk), if_neg (by omega), hsymbol, acSuccSymbol_of_run hst]

theorem acSuccLoop_raise {x : Exit} (hk : d.k ≤ d.se) (hsymbol : acSuccSymbol src table d = .raise x e) (fuel : Nat) :
    acSuccLoop m src table (fuel + 1) d = .raise x e := by
  rw [acSuccLoop, if_neg (Nat.not_lt.mpr hk), hsymbol]
  rfl

/-! A symbol with the walk after it. -/

/-- The decoder after a symbol that `g` writes and a walk of `n` positions that passes `z` zeros. -/
def runWalked (m : RefineMode) (g : Decoder → Decoder) (n : Nat) (bs : List Bool) (d d' : Decoder) : Decoder :=
  let z := (zerosOf (positions d.k n) d).length
  { g d' with
    frame := (refined m (nonzerosOf (positions d.k n) d) bs d').frame
    k := d.k + n, r := runLeft z (g d').r (g d').acState, acState := runState z (g d').r (g d').acState }

theorem runWalked_block (hg : StartsRun g) (n : Nat) (bs : List Bool) (d d' : Decoder) :
    SameBlock (refined m (nonzerosOf (positions d.k n) d) bs d') (runWalked m g n bs d d') := by
  rw [runWalked, refined_frame, hg.locals]
  exact ⟨rfl, rfl, rfl, rfl, rfl⟩

/-- What such a symbol keeps, and that the bits read after it do not change what it wrote. -/
theorem StartsRun.kept (hg : StartsRun g) (hreader : SameButReader d d₁) (hbits : SameButReader d₁ d') :
    (g d₁).k = d.k ∧ (g d₁).se = d.se ∧ SameBlock d (g d₁) ∧ (g d').r = (g d₁).r ∧
    (g d').acState = (g d₁).acState := by
  have hrun : g d' = (g d₁).withReader d' := by rw [← hg.reader]; exact congrArg g hbits
  refine ⟨?_, ?_, ?_, by rw [hrun]; rfl, by rw [hrun]; rfl⟩ <;> rw [hg.locals, hreader]
  exact ⟨rfl, rfl, rfl, rfl, rfl⟩

/-- The walk after a symbol, whose own bits are read in `d₁` and the correction bits in `d'`. -/
theorem walked_of_startsRun (hg : StartsRun g) (hreader : SameButReader d d₁) (hbits : SameButReader d₁ d') :
    walked m n bs (g d₁) (g d') = runWalked m g n bs d d' := by
  obtain ⟨hk, -, hblock, hr, hst⟩ := hg.kept hreader hbits
  have hblock' : SameBlock d' (g d') := by rw [hg.locals]; exact ⟨rfl, rfl, rfl, rfl, rfl⟩
  have hal : (g d').al = d'.al := by rw [hg.locals]
  refine walked_eq ?_ (by rw [hk]) ?_ ?_
  · rw [hk, hblock.nonzerosOf, hblock'.frame_refined m hal]
  · rw [hk, hblock.zerosOf, hr, hst]
  · rw [hk, hblock.zerosOf, hr, hst]

/-- It goes on over `n` positions as long as the run lasts. -/
theorem acSuccLoop_runWalked (hg : StartsRun g) (hreader : SameButReader d d₁) (hse : d.k + n ≤ d.se + 1)
    (h64 : d.k + n ≤ 64) (hlength : bs.length = (nonzerosOf (positions d.k n) d).length) (hbits : delivers src bs d₁ d')
    (hrun : RunLasts (zerosOf (positions d.k n) d).length (g d').r (g d').acState) (fuel : Nat) :
    acSuccLoop m src table (fuel + n) (g d₁) = acSuccLoop m src table fuel (runWalked m g n bs d d') := by
  have hreader' := sameButReader_of_delivers hbits
  obtain ⟨hk, hse₁, hblock, hr, hst⟩ := hg.kept hreader hreader'
  rw [hr, hst, ← hblock.zerosOf, ← hk] at hrun
  rw [← hblock.nonzerosOf, ← hk] at hlength
  rw [← walked_of_startsRun hg hreader hreader']
  exact acSuccLoop_walk (by omega) (by omega) hlength (delivers_update hg.reader hbits) hrun fuel

/-- A symbol whose run lasts to the end of the band, and what is then left of it. -/
theorem acSuccLoop_toEnd {r : Nat} {st : AcState} (hg : StartsRun g) (hk : d.k ≤ d.se) (hse : d.se ≤ 63)
    (hsymbol : acSuccSymbol src table d = .ok () (g d₁)) (hreader : SameButReader d d₁)
    (hlength : bs.length = (nonzerosOf (between d.k d.se) d).length) (hbits : delivers src bs d₁ d')
    (hrun : RunLasts (zerosOf (between d.k d.se) d).length (g d').r (g d').acState)
    (hr : runLeft (zerosOf (between d.k d.se) d).length (g d').r (g d').acState = r)
    (hst : runState (zerosOf (between d.k d.se) d).length (g d').r (g d').acState = st) {fuel : Nat}
    (hfuel : d.se + 1 - d.k ≤ fuel) : acSuccLoop m src table fuel d = .ok () { g d' with
      frame := (refined m (nonzerosOf (between d.k d.se) d) bs d').frame, k := d.se + 1, r := r, acState := st } := by
  have hreader' := sameButReader_of_delivers hbits
  obtain ⟨hk₁, hse₁, -, -, hst₁⟩ := hg.kept hreader hreader'
  obtain ⟨n, rfl⟩ := Nat.exists_eq_add_of_le' hfuel
  obtain ⟨fuel, hfuel⟩ : ∃ fuel, n + (d.se + 1 - d.k) = fuel + 1 := ⟨n + (d.se - d.k), by omega⟩
  have hend : d.k + (d.se + 1 - d.k) = d.se + 1 := by omega
  have hse' : (g d').se = d.se := by rw [hg.locals, hreader', hreader]
  have hwalk := acSuccLoop_runWalked (m := m) (table := table) hg hreader hend.le (by omega) hlength hbits hrun n
  rw [hfuel, acSuccLoop_symbol hk hsymbol hk₁ hse₁ (hst₁ ▸ hrun.ne_initial), ← hfuel, hwalk, runWalked, hend,
    ← between_eq_positions, hr, hst]
  exact acSuccLoop_past (show (g d').se < d.se + 1 by omega) n

/-! A symbol whose run ends inside the band. -/

/-- A stretch up to a zero has that zero beyond those before it. -/
theorem positions_to_zero (hz : zigzag (d.k + n) = some z) (hzero : blkGet z d = 0#32) :
    (zerosOf (between d.k (d.k + n)) d).length = (zerosOf (positions d.k n) d).length + 1 ∧
    nonzerosOf (between d.k (d.k + n)) d = nonzerosOf (positions d.k n) d := by
  have hbetween : between d.k (d.k + n) = positions d.k n ++ [z] := by
    rw [between_eq_positions, show d.k + n + 1 - d.k = n + 1 by omega, positions_append_last hz]
  rw [hbetween, zerosOf, nonzerosOf, List.filter_append, List.filter_append]
  simp [hzero, zerosOf, nonzerosOf]

/-- A zero of `d` is a zero after the walk. -/
theorem blkGet_runWalked_zero (hg : StartsRun g) (hreader : SameButReader d d') (hzero : blkGet z d = 0#32) :
    blkGet z (runWalked m g n bs d d') = 0#32 := by
  rw [(runWalked_block hg n bs d d').blkGet, blkGet_refined_other m _ bs d' (fun _ => lt_of_mem_nonzerosOf)
    (notMem_nonzerosOf hzero _), hreader.sameBlock.blkGet, hzero]

/-- A symbol, the walk of its run, and the zero at which the run ends. -/
theorem acSuccLoop_pass (hg : StartsRun g) (hse : d.k + n ≤ d.se) (h64 : d.k + n < 64)
    (hsymbol : acSuccSymbol src table d = .ok () (g d₁)) (hreader : SameButReader d d₁)
    (hlength : bs.length = (nonzerosOf (positions d.k n) d).length) (hbits : delivers src bs d₁ d')
    (hrun : RunLasts (zerosOf (positions d.k n) d).length (g d').r (g d').acState)
    (hst : (runWalked m g n bs d d').acState ≠ .initial)
    (hvisit : acVisit m src (runWalked m g n bs d d') = .ok () e) (fuel : Nat) :
    acSuccLoop m src table (fuel + (n + 1)) d = acSuccLoop m src table fuel e := by
  have hreader' := sameButReader_of_delivers hbits
  obtain ⟨hk₁, hse₁, -, -, hst₁⟩ := hg.kept hreader hreader'
  have hend : (runWalked m g n bs d d').k ≤ (runWalked m g n bs d d').se := by
    have hse' : (g d').se = d.se := by rw [hg.locals, hreader', hreader]
    exact hse.trans_eq hse'.symm
  rw [← Nat.add_assoc, acSuccLoop_symbol (by omega) hsymbol hk₁ hse₁ (hst₁ ▸ hrun.ne_initial), Nat.add_right_comm,
    acSuccLoop_runWalked hg hreader (by omega) (by omega) hlength hbits hrun, acSuccLoop_visit hend hst hvisit]

/-- ZRL with its sixteenth zero at the last of the positions. -/
theorem acSuccLoop_zrlPass (hst : d.acState = .initial) (hsymbol : decodeHuffman src table d = .ok 0xF0#8 d₁)
    (hse : d.k + n ≤ d.se) (hz : zigzag (d.k + n) = some z) (hzero : blkGet z d = 0#32)
    (hzeros : (zerosOf (positions d.k n) d).length = 15)
    (hlength : bs.length = (nonzerosOf (positions d.k n) d).length) (hbits : delivers src bs d₁ d') (fuel : Nat) :
    acSuccLoop m src table (fuel + (n + 1)) d = acSuccLoop m src table fuel
      { refined m (nonzerosOf (positions d.k n) d) bs d' with k := d.k + n + 1, r := 0, acState := .initial } := by
  have hreader := sameButReader_of_decodeHuffman hsymbol
  have hr : (runWalked m zrlStarted n bs d d').r = 1 := by
    show 16 - (zerosOf (positions d.k n) d).length = 1
    rw [hzeros]
  have hvisit := acVisit_zrlEnd (m := m) (src := src) (d := runWalked m zrlStarted n bs d d') hz
    (blkGet_runWalked_zero startsRun_zrl (hreader.trans (sameButReader_of_delivers hbits)) hzero) rfl hr
  rw [acSuccLoop_pass startsRun_zrl hse (zigzag_lt hz).1 ((acSuccSymbol_initial hst hsymbol).trans rfl) hreader hlength
    hbits (by rw [hzeros]; exact show 15 < 16 by decide) (show AcState.skipZrl ≠ .initial by decide) hvisit,
    refined_frame]
  rfl

/-- The run that RUN/SIZE starts, after at most its `r` zeros. -/
theorem valuePending_run {zeros r : Nat} (h : zeros ≤ r) :
    RunLasts zeros r (if r = 0 then .setValue else .skipRun) ∧
    runLeft zeros r (if r = 0 then .setValue else .skipRun) = r - zeros ∧
    runState zeros r (if r = 0 then .setValue else .skipRun) = if zeros = r then .setValue else .skipRun := by
  by_cases hr : r = 0
  · obtain rfl : zeros = 0 := by omega
    subst hr
    exact ⟨rfl, rfl, rfl⟩
  · rw [if_neg hr]
    exact ⟨⟨by omega, h⟩, rfl, if_congr (by omega) rfl rfl⟩

/-- RUN/SIZE of size 1 with its value placed at the last of the positions. -/
theorem acSuccLoop_valuePass (hst : d.acState = .initial) (hsymbol : decodeHuffman src table d = .ok rs d₁)
    (hsize : rs &&& 0x0F#8 = 1#8) (hbit : readBit src d₁ = .ok sign e) (hv : v = if sign then 1#32 else -1#32)
    (hse : d.k + n ≤ d.se) (hz : zigzag (d.k + n) = some z) (hzero : blkGet z d = 0#32)
    (hzeros : (zerosOf (positions d.k n) d).length = rs.toNat / 16)
    (hlength : bs.length = (nonzerosOf (positions d.k n) d).length) (hbits : delivers src bs e d') (fuel : Nat) :
    acSuccLoop m src table (fuel + (n + 1)) d = acSuccLoop m src table fuel
      { blkSet z (v <<< d.al) (refined m (nonzerosOf (positions d.k n) d) bs d') with
        k := d.k + n + 1, r := 0, acNext := v, acState := .initial } := by
  have hreader : SameButReader d e :=
    (sameButReader_of_decodeHuffman hsymbol).trans ((readBit_frame src d₁).of_ok hbit)
  have hreader' := hreader.trans (sameButReader_of_delivers hbits)
  have hg := startsRun_value (rs.toNat / 16) v
  obtain ⟨hrun, hr, hst'⟩ := valuePending_run hzeros.le
  set w := runWalked m (valuePending (rs.toNat / 16) v) n bs d d'
  have hwr : w.r = 0 := hr.trans (by omega)
  have hwst : w.acState = .setValue := hst'.trans (if_pos hzeros)
  have hwal : w.al = d.al := by show d'.al = d.al; rw [hreader']
  have hvisit := acVisit_place (m := m) (src := src) (d := w) hz (blkGet_runWalked_zero hg hreader' hzero) hwst
  have hstart : acSuccSymbol src table d = .ok () (valuePending (rs.toNat / 16) v e) :=
    (acSuccSymbol_initial hst hsymbol).trans (hv ▸ acSymbol_succ_value hsize hbit)
  rw [acSuccLoop_pass hg hse (zigzag_lt hz).1 hstart hreader hlength hbits hrun (by rw [hwst]; decide) hvisit, ← hwal,
    blkSet_frame z _ (refined _ _ _ _), ← (runWalked_block hg n bs d d').frame_blkSet, refined_frame, hwr]
  rfl

theorem acSuccLoop_succPass (hst : d.acState = .initial) (h : succPass m src table d d') :
    d'.acState = .initial ∧ d'.se = d.se ∧ d.k < d'.k ∧ d'.k ≤ 64 ∧
    ∀ fuel, acSuccLoop m src table (fuel + (d'.k - d.k)) d = acSuccLoop m src table fuel d' := by
  obtain ⟨rs, d₁, d₂, last, z, hsymbol, hk, hlast, hz, hzero, hends⟩ := h
  obtain ⟨n, rfl⟩ := Nat.exists_eq_add_of_le hk
  obtain ⟨hzeros, hnonzeros⟩ := positions_to_zero hz hzero
  have h64 := (zigzag_lt hz).1
  have hn : d.k + n + 1 - d.k = n + 1 := by omega
  rcases hends with ⟨rfl, hrun, hwalk, rfl⟩ | ⟨sign, v, d₃, hsize, hv, hrun, hbit, hwalk, rfl⟩
  · obtain ⟨bs, d', hlength, hbits, rfl⟩ := hwalk
    rw [hnonzeros] at hlength ⊢
    refine ⟨rfl, ?_, show d.k < d.k + n + 1 by omega, show d.k + n + 1 ≤ 64 by omega, fun fuel => ?_⟩
    · rw [refined_frame, sameButReader_of_delivers hbits, sameButReader_of_decodeHuffman hsymbol]
    · exact hn.symm ▸ acSuccLoop_zrlPass hst hsymbol hlast hz hzero (by omega) hlength hbits fuel
  · obtain ⟨bs, d', hlength, hbits, rfl⟩ := hwalk
    rw [hnonzeros] at hlength ⊢
    refine ⟨rfl, ?_, show d.k < d.k + n + 1 by omega, show d.k + n + 1 ≤ 64 by omega, fun fuel => ?_⟩
    · have hreader : SameButReader d₁ d₃ := (readBit_frame src d₁).of_ok hbit
      rw [blkSet_frame, refined_frame, sameButReader_of_delivers hbits, hreader, sameButReader_of_decodeHuffman hsymbol]
    · exact hn.symm ▸ acSuccLoop_valuePass hst hsymbol hsize hbit hv hlast hz hzero (by omega) hlength hbits fuel

/-- Any number of such symbols. -/
theorem acSuccLoop_succPasses : ∀ {n : Nat} {d : Decoder}, d.acState = .initial → succPasses m src table n d d' →
    d'.acState = .initial ∧ d'.se = d.se ∧ d.k ≤ d'.k ∧ (d'.k = d.k ∨ d'.k ≤ 64) ∧
    ∀ fuel, acSuccLoop m src table (fuel + (d'.k - d.k)) d = acSuccLoop m src table fuel d'
  | 0, d, hst, h => by
    cases h
    exact ⟨hst, rfl, Nat.le_refl _, .inl rfl, fun fuel => by rw [Nat.sub_self, Nat.add_zero]⟩
  | n + 1, d, hst, ⟨d₁, hpass, hrest⟩ => by
    obtain ⟨hst₁, hse₁, hk₁, h64₁, hloop₁⟩ := acSuccLoop_succPass hst hpass
    obtain ⟨hst', hse', hk', h64', hloop⟩ := acSuccLoop_succPasses hst₁ hrest
    refine ⟨hst', hse'.trans hse₁, by omega, by omega, fun fuel => ?_⟩
    rw [show fuel + (d'.k - d.k) = fuel + (d'.k - d₁.k) + (d₁.k - d.k) by omega, hloop₁, hloop]

/-! The ends of a block. -/

theorem acSuccBlock_eq (hac : curAc d = some table) : acSuccBlock m src d =
    (acSuccLoop m src table 64 { d with k := d.ss, r := 0 }).andThen fun _ d' => acSuccEnd d' :=
  withTable_bound hac d _

/-- The block's symbols so far have led to `d`, in state 0, with a pass left for each position left. -/
theorem acSuccBlock_of_succPasses (hac : curAc d = some table) (hst : d.acState = .initial)
    (h : succPasses m src table n { d with k := d.ss, r := 0 } d') : d'.acState = .initial ∧ d'.se = d.se ∧
    ∃ fuel, (d.se ≤ 63 → d'.se + 1 - d'.k ≤ fuel) ∧
      acSuccBlock m src d = (acSuccLoop m src table fuel d').andThen fun _ e => acSuccEnd e := by
  obtain ⟨hst', hse, hk, h64, hloop⟩ := acSuccLoop_succPasses (d := { d with k := d.ss, r := 0 }) hst h
  dsimp only at hk h64 hse hloop
  refine ⟨hst', hse, 64 - (d'.k - d.ss), by omega, ?_⟩
  rw [acSuccBlock_eq hac, ← hloop, Nat.sub_add_cancel (by omega)]

end Sys2Proof.Machine

/-! The ends of an AC_SUCC block (44 R231, R233), and the coefficients that its walk leaves. -/

namespace Sys2Proof.Machine

open Sys2Proof.Safety

variable {m : RefineMode} {src : Nat → Option Byte} {table : HuffTable} {s : State} {d d' d₁ e : Decoder} {c : Comp}
  {bs es : List Bool} {ns ns' : List Nat} {n z : Nat} {v : Coef} {b sign : Bool} {rs : Byte}

/-! The ends. -/

theorem acSuccEnd_initial (h : d.acState = .initial) : acSuccEnd d = .ok () d := by rw [acSuccEnd, h]

theorem acSuccEnd_inRun (h : d.acState = .skipZrl ∨ d.acState = .skipRun ∨ d.acState = .setValue) :
    acSuccEnd d = .raise (.abort .refineState) d := by
  rcases h with h | h | h <;> rw [acSuccEnd, h]

theorem acSuccSymbol_raise {x : Exit} (hst : d.acState = .initial) (hsymbol : decodeHuffman src table d = .raise x d₁) :
    acSuccSymbol src table d = .raise x d₁ := by
  rw [acSuccSymbol, if_pos hst, hsymbol]
  rfl

/-- A block in state 0 at `d`, with a pass left for each position left. -/
theorem succEnds_of_acSuccLoop {rule : Decoder → Res Unit} {fuel : Nat} (ho : scanOpen s)
    (hrule : rule s.dec = (acSuccLoop s.params.refineMode s.streamByte table fuel d).andThen fun _ e => acSuccEnd e)
    (hst : d.acState = .initial) (hfuel : d.se ≤ 63 → d.se + 1 - d.k ≤ fuel) :
    succEnds s table d (runRule s rule) := by
  have hraise : ∀ {x : Exit} {e : Decoder}, d.k ≤ d.se → d.se ≤ 63 → acSuccSymbol s.streamByte table d = .raise x e →
      rule s.dec = .raise x e := fun {x e} hk hse h => by
    obtain ⟨f, rfl⟩ : ∃ f, fuel = f + 1 := ⟨fuel - 1, by have := hfuel hse; omega⟩
    rw [hrule, acSuccLoop_raise hk h]
    rfl
  refine ⟨fun hpast => ?_, fun hk hse => ⟨fun rs d₁ hsymbol => ⟨?_, ?_, ?_, fun hsize => ?_⟩,
    fun c d₁ hsymbol => runRule_abort ho (hraise hk hse (acSuccSymbol_raise hst hsymbol)),
    fun mk d₁ hsymbol => runRule_marker ho (hraise hk hse (acSuccSymbol_raise hst hsymbol))⟩⟩
  · exact runRule_ok ho (by rw [hrule, acSuccLoop_past hpast, Res.andThen_ok, acSuccEnd_initial hst])
  all_goals have hsymbol' := acSuccSymbol_initial hst hsymbol
  all_goals have hreader := sameButReader_of_decodeHuffman hsymbol
  · rintro es d₂ _ hrs hzrl hes hbits ⟨bs, d', hlength, hbits', rfl⟩
    have hloop := acSuccLoop_toEnd (m := s.params.refineMode) (startsRun_eobr _ _) hk hse
      (hsymbol'.trans (acSymbol_succ_eobr hrs hzrl hes hbits)) (hreader.trans (sameButReader_of_delivers hbits)) hlength
      hbits' trivial rfl rfl (hfuel hse)
    exact runRule_ok ho (by rw [hrule, hloop, refined_frame]; rfl)
  · rintro sign d₂ _ hsize hzeros hbit ⟨bs, d', hlength, hbits, rfl⟩
    obtain ⟨hrun, hr, hst'⟩ := valuePending_run hzeros
    have hreader' : SameButReader d₁ d₂ := (readBit_frame _ d₁).of_ok hbit
    have hloop := acSuccLoop_toEnd (m := s.params.refineMode) (startsRun_value _ _) hk hse
      (hsymbol'.trans (acSymbol_succ_value hsize hbit)) (hreader.trans hreader') hlength hbits hrun hr hst' (hfuel hse)
    refine runRule_abort ho ?_
    rw [hrule, hloop, Res.andThen_ok, acSuccEnd_inRun, refined_frame]
    · rfl
    · dsimp only
      split
      · exact .inr (.inr rfl)
      · exact .inr (.inl rfl)
  · rintro d₂ rfl hzeros ⟨bs, d', hlength, hbits, rfl⟩
    have hloop := acSuccLoop_toEnd (m := s.params.refineMode) startsRun_zrl hk hse (hsymbol'.trans rfl) hreader hlength
      hbits hzeros rfl rfl (hfuel hse)
    refine runRule_abort ho ?_
    rw [hrule, hloop, Res.andThen_ok, acSuccEnd_inRun (.inl rfl), refined_frame]
    rfl
  · exact runRule_abort ho (hraise hk hse (hsymbol'.trans (acSymbol_succ_badSize hsize)))

/-- A block inside an end-of-band run. -/
theorem acSuccBlock_eobRun (hac : curAc d = some table) (hst : d.acState = .eobRun) (hk : d.ss ≤ d.se)
    (hse : d.se ≤ 63) (hlength : bs.length = (bandNonzeros d).length) (hbits : delivers src bs d d') :
    acSuccBlock m src d = .ok () { refined m (bandNonzeros d) bs d' with
      k := d.se + 1, r := 0, eobrun := d.eobrun - 1
      acState := if d.eobrun - 1 = 0 then .initial else .eobRun } := by
  have hbits' := delivers_update (g := fun e => { e with k := d.ss, r := 0 }) (fun _ _ => rfl) hbits
  have hstart : acSuccSymbol src table { d with k := d.ss, r := 0 } =
      .ok () (eobrStarted 0 d.eobrun { d with k := d.ss, r := 0 }) := by
    rw [eobrStarted, ← hst]
    exact acSuccSymbol_of_run (by dsimp only; rw [hst]; decide)
  have hloop := acSuccLoop_toEnd (m := m) (table := table) (d := { d with k := d.ss, r := 0 })
    (startsRun_eobr 0 d.eobrun) hk hse hstart
    (SameButReader.refl _) hlength hbits' trivial rfl rfl (fuel := 64) (by dsimp only; omega)
  have hframe := SameBlock.frame_refined m (d := d') (d' := { d' with k := d.ss, r := 0 }) ⟨rfl, rfl, rfl, rfl, rfl⟩ rfl
    (bandNonzeros d) bs
  rw [acSuccBlock_eq hac, hloop, refined_frame m (bandNonzeros d) bs d', ← hframe]
  rfl

/-! The coefficients. -/

theorem rising_cellPut {α : Type} [DecidableEq α] (dflt : α) (a : Nat) (v : α) {mem : Store α} (h : Store.rising mem) :
    Store.rising (cellPut dflt a v mem) := by
  unfold cellPut
  split
  · exact rising_storeDrop a h
  · exact rising_storePut a v h

theorem onlyCoefs_of_sameBlock (h : SameBlock d e) (ns : List Nat) : onlyCoefs ns d e :=
  ⟨congrArg (Option.map Frame.outline) h.1, fun n _ => h.blkGet n, fun j _ => h.frameComp j,
    fun c c' row col k hc hc' _ _ _ _ => by rw [Option.some.inj (hc.symm.trans (h.curComp.symm.trans hc'))]⟩

theorem onlyCoefs_of_onlyCoef (h : onlyCoef n d e) : onlyCoefs [n] d e := by
  obtain ⟨hrecord, hblock, hother, hrest⟩ := h
  exact ⟨hrecord, fun k hk => hblock k (by simpa using hk), hother, hrest⟩

theorem onlyCoefs_mono (h : ns ⊆ ns') (ho : onlyCoefs ns d e) : onlyCoefs ns' d e := by
  obtain ⟨hrecord, hblock, hother, hrest⟩ := ho
  exact ⟨hrecord, fun k hk => hblock k (mt (h ·) hk), hother, hrest⟩

/-- The component of a block, in a frame of the same record. -/
theorem curComp_of_sameRecord (hrecord : sameRecord d.frame e.frame) (hsc : curScanComp e = curScanComp d)
    (hc : curComp d = some c) : ∃ c', curComp e = some c' ∧ c'.bplm = c.bplm := by
  have houtline : (curComp e).map Comp.outline = (curComp d).map Comp.outline := by
    have hget : ∀ (x : Decoder) (j : Nat), (frameComp x j).map Comp.outline =
        (x.frame.map Frame.outline).bind (·.comps[j]?) := fun x j => by
      cases hx : x.frame with
      | none => simp [frameComp, hx]
      | some f => simp [frameComp, hx, outline_comps_getElem?]
    unfold curComp
    rw [hsc]
    cases curScanComp d with
    | none => rfl
    | some sc => exact (hget e _).trans ((congrArg (Option.bind · _) hrecord).trans (hget d _).symm)
  rw [hc] at houtline
  obtain ⟨c', hc', h⟩ := Option.map_eq_some_iff.mp houtline
  exact ⟨c', hc', by show c'.outline.bplm = c.outline.bplm; rw [h]⟩

/-- Changes of a block's coefficients, one after the other. -/
theorem onlyCoefs_trans (h : onlyCoefs ns d d₁) (h' : onlyCoefs ns' d₁ e) (hsc : curScanComp d₁ = curScanComp d)
    (hrow : d₁.blkRow = d.blkRow) (hcol : d₁.blkCol = d.blkCol) : onlyCoefs (ns ++ ns') d e := by
  obtain ⟨hrecord, hblock, hother, hrest⟩ := h
  obtain ⟨hrecord', hblock', hother', hrest'⟩ := h'
  rw [hsc] at hother'
  rw [hrow, hcol] at hrest'
  refine ⟨hrecord'.trans hrecord, fun k hk => ?_, fun j hj => (hother' j hj).trans (hother j hj), ?_⟩
  · rw [List.mem_append, not_or] at hk
    exact (hblock' k hk.2).trans (hblock k hk.1)
  · intro c c' row col k hc hc' hin hk hin' hne
    obtain ⟨c₁, hc₁, hbplm⟩ := curComp_of_sameRecord hrecord hsc hc
    rw [← hbplm] at hin hin'
    exact (hrest' c₁ c' row col k hc₁ hc' hin hk hin' hne).trans
      (hrest c c₁ row col k hc hc₁ (hbplm ▸ hin) hk (hbplm ▸ hin') hne)

theorem onlyCoefs_refined (m : RefineMode) : ∀ (ns : List Nat) (bs : List Bool) (d : Decoder), (∀ n ∈ ns, n < 64) →
    onlyCoefs ns d (refined m ns bs d)
  | [], _, _, _ => onlyCoefs_of_sameBlock ⟨rfl, rfl, rfl, rfl, rfl⟩ _
  | _ :: _, [], _, _ => onlyCoefs_of_sameBlock ⟨rfl, rfl, rfl, rfl, rfl⟩ _
  | n :: ns, b :: bs, d, hns => by
    have hset := onlyCoef_blkSet (refine m (blkGet n d) b d.al) (hns n (by simp)) d
    refine onlyCoefs_trans (onlyCoefs_of_onlyCoef hset)
      (onlyCoefs_refined m ns bs _ fun x hx => hns x (by simp [hx])) ?_ ?_ ?_ <;> rw [blkSet_frame]
    rfl

theorem curPred_refined (m : RefineMode) : ∀ (ns : List Nat) (bs : List Bool) (d : Decoder),
    curPred (refined m ns bs d) = curPred d
  | [], _, _ => rfl
  | _ :: _, [], _ => rfl
  | _ :: ns, _ :: bs, d => (curPred_refined m ns bs _).trans (curPred_blkSet _ _ d)

/-- Each of the listed coefficients is refined with its own bit. -/
theorem blkGet_refined (m : RefineMode) : ∀ {ns : List Nat} {bs : List Bool} {d : Decoder} {c : Comp} {j : Nat},
    ns.Nodup → (∀ n ∈ ns, n < 64) → curComp d = some c → Store.rising c.coefs → ns[j]? = some n → bs[j]? = some b →
    blkGet n (refined m ns bs d) = refine m (blkGet n d) b d.al
  | x :: ns, y :: bs, d, c, j, hnodup, hns, hc, hrising, hn, hb => by
    obtain ⟨hx, hnodup⟩ := List.nodup_cons.mp hnodup
    have hns' : ∀ n ∈ ns, n < 64 := fun n hn => hns n (by simp [hn])
    have hc' : curComp (blkSet x (refine m (blkGet x d) y d.al) d) = some _ :=
      (curComp_modifyCur _ d).trans (congrArg (Option.map _) hc)
    cases j with
    | zero =>
      cases hn
      cases hb
      rw [refined, blkGet_refined_other m ns bs _ hns' hx, blkGet_blkSet hc hrising, if_pos rfl]
    | succ j =>
      have hmem : n ∈ ns := List.mem_of_getElem? hn
      rw [refined, blkGet_refined m hnodup hns' hc' (rising_cellPut _ _ _ hrising) hn hb,
        blkGet_blkSet_other (hns x (by simp)) (fun h => hx (h ▸ hmem)), blkSet_frame]
  | [], _, _, _, _, _, _, _, _, hn, _ => by cases hn
  | _ :: _, [], _, _, _, _, _, _, _, _, hb => by cases hb

theorem refined_nil (m : RefineMode) (ns : List Nat) (d : Decoder) : refined m ns [] d = d := by cases ns <;> rfl

theorem curComp_refined (m : RefineMode) : ∀ (ns : List Nat) (bs : List Bool) {d : Decoder} {c : Comp},
    curComp d = some c → Store.rising c.coefs → ∃ c', curComp (refined m ns bs d) = some c' ∧ Store.rising c'.coefs
  | [], _, _, c, hc, hrising => ⟨c, hc, hrising⟩
  | _ :: _, [], _, c, hc, hrising => ⟨c, hc, hrising⟩
  | _ :: ns, _ :: bs, d, _, hc, hrising =>
    curComp_refined m ns bs ((curComp_modifyCur _ d).trans (congrArg (Option.map _) hc)) (rising_cellPut _ _ _ hrising)

/-! The band. -/

section band

variable (hc : curComp d = some c) (hrising : Store.rising c.coefs) (hsame : SameBlock d d') (hal : d'.al = d.al)

include hc hrising hsame hal

/-- The walk over the band's nonzero coefficients, its bits read in `d'`. -/
theorem bandWalked_refined (m : RefineMode) (bs : List Bool) :
    bandWalked m bs [] d (refined m (bandNonzeros d) bs d') := by
  have hns : ∀ n ∈ bandNonzeros d, n < 64 := fun n hn => lt_of_mem_nonzerosOf hn
  have hnodup : (bandNonzeros d).Nodup := (nodup_positions _ _).filter _
  refine ⟨fun j n b hn hb => ?_, ?_, (curPred_refined m _ bs d').trans hsame.curPred⟩
  · rw [blkGet_refined m hnodup hns (hsame.curComp.trans hc) hrising hn hb, hsame.blkGet, hal]
  · exact onlyCoefs_trans (onlyCoefs_of_sameBlock hsame []) (onlyCoefs_refined m _ bs d' hns) hsame.curScanComp
      hsame.2.2.2.1 hsame.2.2.2.2

/-- The same with the pending value placed at a zero of the band. -/
theorem bandWalked_placed (m : RefineMode) (bs : List Bool) (hz : z < 64) (hzero : blkGet z d = 0#32) (v : Coef) :
    bandWalked m bs [z] d (blkSet z v (refined m (bandNonzeros d) bs d')) ∧
    blkGet z (blkSet z v (refined m (bandNonzeros d) bs d')) = v := by
  obtain ⟨hbits, honly, hpred⟩ := bandWalked_refined hc hrising hsame hal m bs
  obtain ⟨c', hc', hrising'⟩ := curComp_refined m (bandNonzeros d) bs (hsame.curComp.trans hc) hrising
  obtain ⟨-, hscomps, hcomp, hrow, hcol⟩ := id hsame
  refine ⟨⟨fun j n b hn hb => ?_, ?_, (curPred_blkSet _ _ _).trans hpred⟩,
    (blkGet_blkSet hc' hrising' z z v).trans (if_pos rfl)⟩
  · have hne : n ≠ z := fun h => notMem_nonzerosOf hzero _ (h ▸ List.mem_of_getElem? hn)
    exact (blkGet_blkSet_other hz hne v _).trans (hbits j n b hn hb)
  · refine onlyCoefs_mono ?_ (onlyCoefs_trans honly (onlyCoefs_of_onlyCoef (onlyCoef_blkSet v hz _)) ?_ ?_ ?_)
    · intro x hx
      simpa [or_comm] using hx
    all_goals rw [refined_frame]
    · exact hsame.curScanComp
    · exact hrow
    · exact hcol

end band

theorem bandNonzeros_of_zeros (h : ∀ k n, d.ss ≤ k → k ≤ d.se → zigzag k = some n → blkGet n d = 0#32) :
    bandNonzeros d = [] := by
  refine List.filter_eq_nil_iff.mpr fun n hn => ?_
  obtain ⟨k, hk, hlt, hz⟩ := mem_positions.mp hn
  simpa using h k n hk (by omega) hz

/-! The blocks. -/

theorem delivers_append : ∀ {es bs : List Bool} {d d' : Decoder},
    delivers src (es ++ bs) d d' → ∃ e, delivers src es d e ∧ delivers src bs e d'
  | [], _, d, _, h => ⟨d, rfl, h⟩
  | _ :: _, _, _, _, ⟨d₁, hbit, hrest⟩ => by
    obtain ⟨e, hes, hbs⟩ := delivers_append hrest
    exact ⟨e, ⟨d₁, hbit, hes⟩, hbs⟩

/-! The rows of the two AC scans of a progressive image. -/

section row

variable (ho : scanOpen s) (hb : blockHere s.dec = true) (hac : curAc s.dec = some table)

include ho hb hac

theorem exec_acFirst_inRun (hrun : 0 < s.dec.eobrun) : exec .acFirst s = .next { s with
    dec := { s.dec with mode := some .acFirst, eobrun := s.dec.eobrun - 1 } } :=
  (runMode_eq hb).trans (runRule_ok ho ((withTable_bound hac _ _).trans (if_pos hrun)))

theorem exec_acFirst_eobr (hrun : s.dec.eobrun = 0) (hband : s.dec.ss ≤ s.dec.se)
    (hsymbol : decodeHuffman s.streamByte table { s.dec with mode := some .acFirst, k := s.dec.ss } = .ok rs d₁)
    (hrs : rs &&& 0x0F#8 = 0#8) (hzrl : rs ≠ 0xF0#8) (hlength : bs.length = rs.toNat / 16)
    (hbits : delivers s.streamByte bs d₁ d') : exec .acFirst s = .next { s with
      dec := { d' with eobrun := bitsValue bs + 2 ^ bs.length - 1, k := s.dec.se + 1 } } :=
  (runMode_eq hb).trans (runRule_ok ho ((acFirstBlock_of_noRun (d := { s.dec with mode := some .acFirst })
    hac hrun).trans (acLoop_eobr hband hsymbol hrs hzrl hlength hbits 63)))

/-- An AC_SUCC row inside an end-of-band run. -/
theorem exec_acSucc_eobRun (hst : s.dec.acState = .eobRun) (hband : s.dec.ss ≤ s.dec.se) (hse : s.dec.se ≤ 63)
    (hlength : bs.length = (bandNonzeros s.dec).length) (hbits : delivers s.streamByte bs s.dec d') :
    exec .acSucc s = .next { s with
      dec := { refined s.params.refineMode (bandNonzeros s.dec) bs { d' with mode := some .acSucc } with
        k := s.dec.se + 1, r := 0, eobrun := s.dec.eobrun - 1
        acState := if s.dec.eobrun - 1 = 0 then .initial else .eobRun } } :=
  (runMode_eq hb).trans (runRule_ok ho (acSuccBlock_eobRun (d := { s.dec with mode := some .acSucc }) hac hst hband hse
    hlength (delivers_update (g := fun e => { e with mode := some .acSucc }) (fun _ _ => rfl) hbits)))

/-- An AC_SUCC row whose symbols so far have led to `d`. -/
theorem succEnds_of_succPasses (hst : s.dec.acState = .initial)
    (h : succPasses s.params.refineMode s.streamByte table n
      { s.dec with mode := some .acSucc, k := s.dec.ss, r := 0 } d) : succEnds s table d (exec .acSucc s) := by
  obtain ⟨hst', hse, fuel, hfuel, hblock⟩ :=
    acSuccBlock_of_succPasses (d := { s.dec with mode := some .acSucc }) hac hst h
  rw [← hse] at hfuel
  have hexec : exec .acSucc s = _ := runMode_eq hb
  rw [hexec]
  exact succEnds_of_acSuccLoop ho hblock hst' hfuel

/-- An AC_SUCC row whose first symbol leads past the band. -/
theorem exec_acSucc_of_lastPass (hst : s.dec.acState = .initial)
    (h : succPass s.params.refineMode s.streamByte table
      { s.dec with mode := some .acSucc, k := s.dec.ss, r := 0 } d) (hk : s.dec.se < d.k) :
    exec .acSucc s = .next { s with dec := d } := by
  obtain ⟨-, hse, -⟩ := acSuccLoop_succPass (d := { s.dec with mode := some .acSucc, k := s.dec.ss, r := 0 }) hst h
  obtain ⟨hpast, -⟩ := succEnds_of_succPasses ho hb hac (n := 1) hst ⟨d, h, rfl⟩
  exact hpast (hse.trans_lt hk)

end row

/-- Settles O43: a block in state 4 walks its band to the end; one in state 0 is led on symbol by symbol to its ends, and
the clauses about one symbol say what those ends are where no symbol, or one only, comes before them. -/
theorem endOfBandRunsCountBlocks : Obligations.EndOfBandRunsCountBlocks := by
  intro s table ho hb hac
  refine ⟨exec_acFirst_inRun ho hb hac, fun rs d₁ bs d' => exec_acFirst_eobr ho hb hac,
    fun hband hse hzeros => ⟨fun hst => ?_, fun rs d₁ bs d' hst hsymbol hrs hzrl hlength hbits => ?_⟩,
    fun hi hband hse => ⟨fun bs d' hst hlength hbits => ?_, fun rs d₁ bs d' hst hsymbol hlength => ?_⟩,
    fun n d => succEnds_of_succPasses ho hb hac⟩
  · have hnil := bandNonzeros_of_zeros hzeros
    have hexec := exec_acSucc_eobRun ho hb hac (bs := []) hst hband hse (congrArg List.length hnil).symm rfl
    rwa [refined_nil] at hexec
  · have hnil := bandNonzeros_of_zeros hzeros
    obtain ⟨-, hin⟩ := succEnds_of_succPasses ho hb hac (n := 0) hst rfl
    obtain ⟨hsymbols, -, -⟩ := hin hband hse
    obtain ⟨heobr, -⟩ := hsymbols rs d₁ hsymbol
    exact heobr bs d' d' hrs hzrl hlength hbits
      ⟨[], d', (congrArg List.length hnil).symm, rfl, (refined_nil _ _ _).symm⟩
  · obtain ⟨c, hc, hrising⟩ := curComp_of_blockHere hi hb
    have hreader := sameButReader_of_delivers hbits
    have hsame : SameBlock s.dec { d' with mode := some .acSucc } := hreader.sameBlock
    have hal : d'.al = s.dec.al := by rw [hreader]
    exact ⟨_, exec_acSucc_eobRun ho hb hac hst hband hse hlength hbits,
      bandWalked_refined hc hrising hsame hal _ bs, by rw [refined_frame]⟩
  · obtain ⟨c, hc, hrising⟩ := curComp_of_blockHere hi hb
    obtain ⟨-, hin⟩ := succEnds_of_succPasses ho hb hac (n := 0) hst rfl
    obtain ⟨hsymbols, -, -⟩ := hin hband hse
    obtain ⟨heobr, hvalue, hzrl, -⟩ := hsymbols rs d₁ hsymbol
    have hwalked : ∀ {es : List Bool} {e : Decoder}, delivers s.streamByte es d₁ e →
        SameBlock s.dec e ∧ e.al = s.dec.al := fun h => by
      have hreader := (sameButReader_of_decodeHuffman hsymbol).trans (sameButReader_of_delivers h)
      exact ⟨hreader.sameBlock, by rw [hreader]⟩
    refine ⟨fun es hrs hnzrl hes hbits => ?_,
      fun sign v z hsize hv hbits => ⟨fun hcount hz hzero => ?_, fun hcount => ?_⟩,
      fun z hrs hbits => ⟨fun hcount hz hzero => ?_, fun hcount => ?_⟩⟩
    all_goals
      obtain ⟨hsame, hal⟩ := hwalked hbits
      have hband' := bandWalked_refined hc hrising hsame hal s.params.refineMode bs
    · obtain ⟨e, hes', hbs⟩ := delivers_append hbits
      exact ⟨_, heobr es e _ hrs hnzrl hes hes' ⟨bs, d', hlength, hbs, rfl⟩, hband', by rw [refined_frame]⟩
    · obtain ⟨e, hbit, hbs⟩ := hbits
      obtain ⟨hband', hplaced⟩ := bandWalked_placed hc hrising hsame hal s.params.refineMode bs (zigzag_lt hz).2 hzero
        (v <<< s.dec.al)
      exact ⟨_, exec_acSucc_of_lastPass ho hb hac hst ⟨rs, d₁, _, s.dec.se, z, hsymbol, hband, Nat.le_refl _, hz, hzero,
          .inr ⟨sign, v, e, hsize, hv, hcount, hbit, ⟨bs, d', hlength, hbs, rfl⟩, rfl⟩⟩ (Nat.lt_succ_self _),
        hband', hplaced, by rw [blkSet_frame, refined_frame]⟩
    · obtain ⟨e, hbit, hbs⟩ := hbits
      exact ⟨_, hvalue sign e _ hsize hcount hbit ⟨bs, d', hlength, hbs, rfl⟩, hband', by rw [refined_frame, hv]; rfl⟩
    · exact ⟨_, exec_acSucc_of_lastPass ho hb hac hst ⟨rs, d₁, _, s.dec.se, z, hsymbol, hband, Nat.le_refl _, hz, hzero,
          .inl ⟨hrs, hcount, ⟨bs, d', hlength, hbits, rfl⟩, rfl⟩⟩ (Nat.lt_succ_self _), hband', by rw [refined_frame]⟩
    · exact ⟨_, hzrl _ hrs hcount ⟨bs, d', hlength, hbits, rfl⟩, hband', by rw [refined_frame]; rfl⟩

end Sys2Proof.Machine

/-! The rows of a DQT group (45 R260 to R263): the bytes they read, the slot they fill and how they fail. -/

namespace Sys2Proof.Machine

open Sys2Proof.Safety

variable {s t : State} {wide : Bool} {tq : BitVec 4}

/-! LOAD_DQT and LOAD_DHT by their byte. -/

/-- The meaning of a PqTq byte is that of the row it decodes to (45 R260, 30 R88). -/
theorem dqtByte_eq_exec (b : Byte) (s : State) : dqtByte b s = exec (decodeDqt b) s := by
  conv_rhs => rw [← nibbles_fields b, decodeDqt_nibbles]
  dsimp only [dqtByte]
  split_ifs <;> rfl

/-- The meaning of a TcTh byte is that of the row it decodes to (42 R161, 30 R89). -/
theorem dhtByte_eq_exec (b : Byte) (s : State) : dhtByte b s = exec (decodeDht b) s := by
  conv_rhs => rw [← nibbles_fields b, decodeDht_nibbles]
  dsimp only [dhtByte]
  split_ifs <;> rfl

theorem exec_loadDqt_of_byte {b : Byte} (h : s.streamByte s.streamPos.toNat = some b) :
    exec .loadDqt s = exec (decodeDqt b) s := by
  show execLoadDqt s = _
  rw [← dqtByte_eq_exec, execLoadDqt, h]

theorem exec_loadDht_of_byte {b : Byte} (h : s.streamByte s.streamPos.toNat = some b) :
    exec .loadDht s = exec (decodeDht b) s := by
  show execLoadDht s = _
  rw [← dhtByte_eq_exec, execLoadDht, h]

/-- No byte is read at or beyond STREAM_LEN (20 R61). -/
theorem streamByte_beyond {a : Nat} (h : s.streamLen.toNat ≤ a) : s.streamByte a = none := if_neg (Nat.not_lt.mpr h)

/-- A table command with no byte at STREAM_POS misses that one. -/
theorem endCommand_missingByte :
    endCommand s (.error (missingByte s.streamPos.toNat)) = .next (failed .streamEos s.streamPos s) := by
  simp only [endCommand, missingByte, BitVec.ofNat_toNat, BitVec.setWidth_eq]
  rfl

/-- Settles O23: the byte at STREAM_POS chooses the row, and without one both commands miss it. -/
theorem tableCommandsRunTheirGroup : Obligations.TableCommandsRunTheirGroup := by
  refine ⟨fun s b hb => ⟨exec_loadDqt_of_byte hb, exec_loadDht_of_byte hb⟩, fun s hend => ?_⟩
  have hnone : s.streamByte s.streamPos.toNat = none := streamByte_beyond hend
  constructor
  · show execLoadDqt s = _
    simp only [execLoadDqt, hnone, endCommand_missingByte]
  · show execLoadDht s = _
    simp only [execLoadDht, hnone, endCommand_missingByte]

/-! De-zigzag (45 R261). -/

/-- A natural index that no entry's position names keeps its value. -/
theorem placeEntries_other {z : Nat} : ∀ {vs : List Half} {k : Nat} {q : QTable},
    (∀ j, zigzag (k + j) ≠ some z) → (placeEntries k vs q)[z]? = q[z]?
  | [], _, _, _ => rfl
  | v :: vs, k, q, h => by
    rw [placeEntries]
    split
    · rename_i n hn
      have hne : n ≠ z := fun hnz => h 0 (hnz ▸ hn)
      rw [placeEntries_other fun j => by rw [Nat.add_assoc]; exact h (1 + j), Vector.getElem?_setIfInBounds_ne hne]
    · rfl

/-- Entry j of those from position k is stored at natural index Z[k + j]. -/
theorem placeEntries_getElem? {z : Nat} {v : Half} : ∀ {vs : List Half} {k j : Nat} {q : QTable},
    zigzag (k + j) = some z → vs[j]? = some v → (placeEntries k vs q)[z]? = some v
  | u :: vs, k, j, q, hz, hv => by
    obtain ⟨hk, hz64⟩ := zigzag_lt hz
    obtain ⟨n, hn⟩ := zigzag_isSome (k := k) (by omega)
    simp only [placeEntries, hn]
    cases j with
    | zero =>
      obtain rfl : n = z := Option.some.inj (hn.symm.trans hz)
      obtain rfl : u = v := Option.some.inj hv
      have hlater : ∀ i, zigzag (k + 1 + i) ≠ some n := fun i hi => by
        have := zigzag_inj hn hi
        omega
      rw [placeEntries_other hlater, Vector.getElem?_setIfInBounds_self_of_lt hz64]
    | succ j => exact placeEntries_getElem? (by rwa [Nat.add_right_comm]) hv

theorem deZigzag_getElem? {entries : List Half} {k n : Nat} {v : Half} (hz : zigzag k = some n)
    (hv : entries[k]? = some v) : (deZigzag entries)[n]? = some v :=
  placeEntries_getElem? (by rwa [Nat.zero_add]) hv

/-! A group's bytes and entries. -/

/-- Byte pairs in order are big-endian values in order (20 R67). -/
theorem pairUp_range : ∀ (n : Nat) (f : Nat → Byte),
    pairUp ((List.range (2 * n)).map f) = (List.range n).map fun k => bigEndian (f (2 * k)) (f (2 * k + 1))
  | 0, _ => rfl
  | n + 1, f => by
    have ih := pairUp_range n fun k => f (k + 2)
    simp only [Nat.mul_succ, List.range_succ_eq_map, List.map_cons, List.map_map, pairUp, Function.comp_def] at ih ⊢
    rw [← ih]

/-- The number of bytes of a group's entries. -/
def groupSize (wide : Bool) : Nat := if wide then 128 else 64

/-- A group's k-th entry, one byte or a big-endian pair, in the bytes after the one at STREAM_POS (45 R261). -/
def groupEntry (wide : Bool) (s : State) (k : Nat) : Half :=
  if wide then Memory.read s.mem (s.streamPos.toNat + 1 + 2 * k) ++ Memory.read s.mem (s.streamPos.toNat + 2 + 2 * k)
  else (Memory.read s.mem (s.streamPos.toNat + 1 + k)).setWidth 16

/-- A group's bytes after the one at STREAM_POS. -/
def groupBytes (wide : Bool) (s : State) : List Byte :=
  (List.range (groupSize wide)).map fun i => Memory.read s.mem (s.streamPos.toNat + 1 + i)

/-- The entries that a group makes of its bytes (20 R67, 45 R260). -/
theorem groupEntries_eq (wide : Bool) (s : State) :
    (if wide then pairUp (groupBytes wide s) else (groupBytes wide s).map (·.setWidth 16)) =
      (List.range 64).map (groupEntry wide s) := by
  cases wide
  · exact List.map_map
  · rw [if_pos rfl, show groupBytes true s =
      (List.range (2 * 64)).map fun i => Memory.read s.mem (s.streamPos.toNat + 1 + i) from rfl, pairUp_range]
    refine List.map_congr_left fun k _ => ?_
    rw [groupEntry, if_pos rfl, show s.streamPos.toNat + 2 + 2 * k = s.streamPos.toNat + 1 + (2 * k + 1) by omega]
    rfl

/-- The quantization table of the group's 64 entries. -/
def groupTable (wide : Bool) (s : State) : QTable := deZigzag ((List.range 64).map (groupEntry wide s))

theorem groupTable_getElem? {k n : Nat} (h : zigzag k = some n) :
    (groupTable wide s)[n]? = some (groupEntry wide s k) :=
  deZigzag_getElem? h (by simp [(zigzag_lt h).1])

/-! What a group does. -/

theorem ofNat_toNat_add (p : Word) (n : Nat) : BitVec.ofNat 32 (p.toNat + n) = p + BitVec.ofNat 32 n := by
  rw [BitVec.ofNat_add, BitVec.ofNat_toNat, BitVec.setWidth_eq]

/-- A filled slot is refused (45 R262). -/
theorem dqtGroup_full (hfull : (storeGet tq.toNat s.qt).isSome = true) :
    dqtGroup wide tq s = .error { code := .qtRedefined, pos := s.streamPos } := if_pos hfull

section Empty

variable (hempty : storeGet tq.toNat s.qt = none)

include hempty

/-- A group that STREAM_LEN cuts short (45 R260, 60 R323). -/
theorem dqtGroup_cut (hpos : s.streamPos.toNat < s.streamLen.toNat)
    (hcut : s.streamLen.toNat < s.streamPos.toNat + 1 + groupSize wide) :
    dqtGroup wide tq s = .error { code := .streamEos, pos := s.streamLen } := by
  have hread : readBytes s (if wide then 128 else 64) (s.streamPos.toNat + 1) = .error s.streamLen.toNat :=
    readBytes_cut (Nat.succ_le_of_lt hpos) hcut
  simp only [dqtGroup, hempty, Option.isSome_none, Bool.false_eq_true, if_false, hread, missingByte_streamLen]

/-- A group whose bytes are all there fills its slot (45 R260, R261). -/
theorem dqtGroup_filled (hend : s.streamPos.toNat + 1 + groupSize wide ≤ s.streamLen.toNat) :
    dqtGroup wide tq s = .ok { s with
      qt := storePut tq.toNat (groupTable wide s) s.qt
      streamPos := s.streamPos + BitVec.ofNat 32 (1 + groupSize wide) } := by
  have hread : readBytes s (if wide then 128 else 64) (s.streamPos.toNat + 1) = .ok (groupBytes wide s) :=
    readBytes_below hend
  simp only [dqtGroup, hempty, Option.isSome_none, Bool.false_eq_true, if_false, hread, groupEntries_eq, groupTable,
    groupSize, Nat.add_assoc, ofNat_toNat_add]

end Empty

/-! The rows (30 R88). -/

/-- The row of a group width. -/
def dqtRow (wide : Bool) (tq : BitVec 4) : Instr := if wide then .dqtGroup16 tq else .dqtGroup8 tq

theorem exec_dqtRow (wide : Bool) (tq : BitVec 4) (s : State) :
    exec (dqtRow wide tq) s = endCommand s (dqtGroup wide tq s) := by
  cases wide <;> rfl

/-- LOAD_DQT runs the row of a PqTq byte of precision 0 or 1. -/
theorem exec_loadDqt_group
    (h : s.streamByte s.streamPos.toNat = some (nibbles (if wide then 1#4 else 0#4) tq)) :
    exec .loadDqt s = exec (dqtRow wide tq) s := by
  rw [exec_loadDqt_of_byte h, decodeDqt_nibbles]
  cases wide <;> rfl

/-- A row with an empty slot and its bytes below STREAM_LEN, by itself and by LOAD_DQT. -/
theorem exec_dqtRow_fills (wide : Bool) (hempty : storeGet tq.toNat s.qt = none)
    (hend : s.streamPos.toNat + 1 + groupSize wide ≤ s.streamLen.toNat) : ∃ t q,
      exec (dqtRow wide tq) s = .next t ∧
      (s.streamByte s.streamPos.toNat = some (nibbles (if wide then 1#4 else 0#4) tq) → exec .loadDqt s = .next t) ∧
      t = ended { s with
        qt := storePut tq.toNat q s.qt, streamPos := s.streamPos + BitVec.ofNat 32 (1 + groupSize wide) } ∧
      ∀ k n, zigzag k = some n → q[n]? = some (groupEntry wide s k) := by
  have hrow := exec_dqtRow wide tq s
  rw [dqtGroup_filled hempty hend] at hrow
  exact ⟨_, groupTable wide s, hrow, fun hbyte => (exec_loadDqt_group hbyte).trans hrow, rfl,
    fun _ _ => groupTable_getElem?⟩

/-- Settles O24: a row reads its 64 entries and de-zigzags them into its slot. -/
theorem dqtGroupsFillTheirSlot : Obligations.DqtGroupsFillTheirSlot :=
  ⟨fun _ => rfl, fun _ _ hempty => ⟨exec_dqtRow_fills false hempty, exec_dqtRow_fills true hempty⟩⟩

/-- A row with a filled slot. -/
theorem exec_dqtRow_full (wide : Bool) (hfull : (storeGet tq.toNat s.qt).isSome = true) :
    exec (dqtRow wide tq) s = .next (failed .qtRedefined s.streamPos s) := by
  rw [exec_dqtRow, dqtGroup_full hfull]
  rfl

/-- A group keeps the table of every filled slot: it fills an empty one. -/
theorem dqtGroup_keeps_filled {u : State} {k : Nat} {q : QTable} (h : dqtGroup wide tq s = .ok u)
    (hq : storeGet k s.qt = some q) : storeGet k u.qt = some q := by
  obtain ⟨hempty, bytes, -, rfl⟩ := dqtGroup_ok h
  have hne : k ≠ tq.toNat := by
    rintro rfl
    rw [hempty] at hq
    cases hq
  rwa [storeGet_storePut_other hne]

theorem exec_dqtRow_keeps_filled {k : Nat} {q : QTable} (h : exec (dqtRow wide tq) s = .next t)
    (hq : storeGet k s.qt = some q) : storeGet k t.qt = some q := by
  rw [exec_dqtRow] at h
  rcases endCommand_cases s (dqtGroup wide tq s) with ⟨u, hu, hend⟩ | ⟨e, -, hend⟩
  · cases hend.symm.trans h
    exact dqtGroup_keeps_filled (u := u) hu hq
  · cases hend.symm.trans h
    exact hq

theorem exec_loadDqt_keeps_filled {k : Nat} {q : QTable} (h : exec .loadDqt s = .next t)
    (hq : storeGet k s.qt = some q) : storeGet k t.qt = some q := by
  rcases execLoadDqt_next h with ⟨c, pos, rfl⟩ | ⟨wide, tq, u, hu, rfl⟩
  · exact hq
  · exact dqtGroup_keeps_filled (u := u) hu hq

/-- Only CLEAR changes the table in a filled slot (45 R262). -/
theorem exec_keeps_filled {i : Instr} {k : Nat} {q : QTable} (h : exec i s = .next t) (hclear : i ≠ .clear)
    (hq : storeGet k s.qt = some q) : storeGet k t.qt = some q := by
  cases i with
  | loadDqt => exact exec_loadDqt_keeps_filled h hq
  | dqtGroup8 tq => exact exec_dqtRow_keeps_filled (wide := false) h hq
  | dqtGroup16 tq => exact exec_dqtRow_keeps_filled (wide := true) h hq
  | _ => rwa [exec_qt h hclear nofun nofun nofun]

/-- A host write that is no SOFT_RESET leaves the tables and the lines. -/
theorem qt_lines_busWrite {slot : BitVec 6} {w : Word} (h : ¬ (slot = slotOf 0x004 ∧ w.getLsbD 1 = true))
    (s : State) : (busWrite slot w s).qt = s.qt ∧ (busWrite slot w s).lines = s.lines := by
  rcases busWrite_cases slot w s with ⟨hslot, hw, -⟩ | hsame
  · exact (h ⟨hslot, hw⟩).elim
  · rw [hsame]
    exact ⟨rfl, rfl⟩

/-- Settles O25: a row refuses a filled slot, no other instruction but CLEAR writes one, and a host write that is no
SOFT_RESET writes none. -/
theorem quantTablesAreNeverReassigned : Obligations.QuantTablesAreNeverReassigned := by
  refine ⟨fun s tq hfull => ?_, fun _ _ _ _ _ => exec_keeps_filled,
    fun _ _ s hreset => (qt_lines_busWrite hreset s).1⟩
  have h8 := exec_dqtRow_full false hfull
  have h16 := exec_dqtRow_full true hfull
  refine ⟨h8, h16, ?_⟩
  rintro (hbyte | hbyte)
  · exact (exec_loadDqt_group (wide := false) hbyte).trans h8
  · exact (exec_loadDqt_group (wide := true) hbyte).trans h16

/-- A row with an empty slot whose bytes STREAM_LEN cuts short. -/
theorem exec_dqtRow_cut (wide : Bool) (hempty : storeGet tq.toNat s.qt = none)
    (hpos : s.streamPos.toNat < s.streamLen.toNat)
    (hcut : s.streamLen.toNat < s.streamPos.toNat + 1 + groupSize wide) :
    exec (dqtRow wide tq) s = .next (failed .streamEos s.streamLen s) := by
  rw [exec_dqtRow, dqtGroup_cut hempty hpos hcut]
  rfl

/-- Settles O26: a reserved row refuses at once, and a group cut short misses the byte at STREAM_LEN. -/
theorem badDqtGroupsChangeNothing : Obligations.BadDqtGroupsChangeNothing :=
  ⟨fun _ _ _ => ⟨rfl, rfl, rfl⟩, fun _ _ hempty hpos =>
    ⟨exec_dqtRow_cut false hempty hpos, exec_dqtRow_cut true hempty hpos⟩⟩

end Sys2Proof.Machine

/-! The inverse DCT (45 R264 to R269, R272), sample by sample. -/

namespace Sys2Proof.Machine

open Sys2Proof.Safety

variable {α β : Type}

/-! Eights by index. -/

/-- The j-th of eight, and the last for every j from 7 up. -/
def eightGet (e : Eight α) : Nat → α
  | 0 => e.p0
  | 1 => e.p1
  | 2 => e.p2
  | 3 => e.p3
  | 4 => e.p4
  | 5 => e.p5
  | 6 => e.p6
  | _ => e.p7

theorem eightList_getElem? (e : Eight α) : ∀ {j : Nat}, j < 8 → (eightList e)[j]? = some (eightGet e j)
  | 0, _ | 1, _ | 2, _ | 3, _ | 4, _ | 5, _ | 6, _ | 7, _ => rfl
  | n + 8, h => absurd h (by omega)

theorem eightList_getD (e : Eight α) {j : Nat} (h : j < 8) (a : α) : (eightList e).getD j a = eightGet e j := by
  rw [List.getD_eq_getElem?_getD, eightList_getElem? e h]
  rfl

@[simp] theorem eightGet_eightMap (f : α → β) (e : Eight α) (j : Nat) :
    eightGet (eightMap f e) j = f (eightGet e j) := by
  unfold eightGet
  split <;> rfl

@[simp] theorem eightGet_transpose (b : Eight (Eight α)) (j : Nat) :
    eightGet (transpose b) j = eightMap (eightGet · j) b := by
  unfold eightGet transpose
  split <;> rfl

theorem eightGet_const (a : α) (j : Nat) : eightGet (eightOf fun _ => a) j = a := by
  unfold eightGet
  split <;> rfl

/-- A tile's sample at row y, column x. -/
theorem tile_getElem? (t : Tile) {y x : Nat} (hy : y < 8) (hx : x < 8) :
    ((eightList t)[y]?.bind fun row => (eightList row)[x]?) = some (eightGet (eightGet t y) x) := by
  rw [eightList_getElem? t hy]
  exact eightList_getElem? _ hx

/-! The two passes. -/

/-- Row r of the dequantized block (45 R264). -/
def dequantRow (blk : Nat → Coef) (q : QTable) (r : Nat) : Eight Coef :=
  eightOf fun x => blk (8 * r + x) * (q[8 * r + x]?.getD 0#16).setWidth 32

/-- Column x of the row pass's result. -/
def rowPassColumn (blk : Nat → Coef) (q : QTable) (x : Nat) : Eight Coef :=
  eightOf fun r => eightGet (pass8 rowShape (dequantRow blk q r)) x

/-- Each sample is one of its column's pass over the rows' passes, level-shifted and clamped (45 R269). -/
theorem idct8x8_sample (blk : Nat → Coef) (q : QTable) (y x : Nat) :
    eightGet (eightGet (idct8x8 blk q) y) x =
      levelShift (eightGet (pass8 colShape (rowPassColumn blk q x)) y) := by
  simp only [idct8x8, idct2d, eightGet_eightMap, eightGet_transpose]
  rfl

/-! A pass as the rule writes it (45 R265 to R268). -/

/-- The shape of a pass. -/
def passShape (column : Bool) : PassShape := if column then colShape else rowShape

theorem acAllZero_eightOf (f : Nat → Coef) : acAllZero (eightOf f) = true ↔
    f 1 = 0#32 ∧ f 2 = 0#32 ∧ f 3 = 0#32 ∧ f 4 = 0#32 ∧ f 5 = 0#32 ∧ f 6 = 0#32 ∧ f 7 = 0#32 := by
  simp only [acAllZero, eightOf, Bool.and_eq_true, beq_iff_eq, and_assoc]

theorem pass8_of_acAllZero (z : PassShape) {p : Eight Coef} (h : acAllZero p = true) :
    pass8 z p = eightOf fun _ => fastValue z p.p0 := if_pos h

/-- The four stages, on both shapes, are the rule's assignments. -/
theorem eightList_pass8 (column : Bool) (f : Nat → Coef) :
    eightList (pass8 (passShape column) (eightOf f)) = passByRule column f := by
  by_cases hzero : acAllZero (eightOf f) = true
  · rw [pass8_of_acAllZero _ hzero, passByRule, if_pos ((acAllZero_eightOf f).mp hzero)]
    cases column <;> rfl
  · rw [pass8, if_neg hzero, passByRule, if_neg (mt (acAllZero_eightOf f).mpr hzero)]
    cases column
    · rfl
    · simp only [passShape, if_true, stage4, colShape, BitVec.shiftLeft_zero]
      rfl

theorem passByRule_getD (column : Bool) (f : Nat → Coef) {j : Nat} (hj : j < 8) :
    (passByRule column f).getD j 0#32 = eightGet (pass8 (passShape column) (eightOf f)) j := by
  rw [← eightList_pass8, eightList_getD _ hj]

/-- The default IDCT8x8 is the rules' (45 R264 to R269). -/
theorem idct8x8_eq_idctByRules (blk : Nat → Coef) (q : QTable) {y x : Nat} (hy : y < 8) (hx : x < 8) :
    ((eightList (idct8x8 blk q))[y]?.bind fun row => (eightList row)[x]?) = some (idctByRules blk q y x) := by
  rw [tile_getElem? _ hy hx, idct8x8_sample]
  simp only [idctByRules, passByRule_getD _ _ hy, passByRule_getD _ _ hx]
  rfl

/-! Flat blocks (45 R272). -/

/-- Eight of which only the first may be nonzero. -/
def onlyFirst (a : Coef) : Eight Coef := ⟨a, 0#32, 0#32, 0#32, 0#32, 0#32, 0#32, 0#32⟩

/-- They take the fast path (45 R268). -/
theorem pass8_onlyFirst (z : PassShape) (a : Coef) : pass8 z (onlyFirst a) = eightOf fun _ => fastValue z a :=
  pass8_of_acAllZero z rfl

theorem fastValue_row_zero : fastValue rowShape 0#32 = 0#32 := by decide

section Flat

variable {blk : Nat → Coef} (hflat : ∀ n, n ≠ 0 → blk n = 0#32)

include hflat

theorem dequantRow_flat_zero (q : QTable) : dequantRow blk q 0 = onlyFirst (blk 0 * (q[0]).setWidth 32) := by
  simp [dequantRow, eightOf, onlyFirst, hflat]

theorem dequantRow_flat_succ (q : QTable) (r : Nat) : dequantRow blk q (r + 1) = onlyFirst 0#32 := by
  simp [dequantRow, eightOf, onlyFirst, hflat]

/-- Row 0's pass gives one value to each column, and the other rows' give 0. -/
theorem rowPassColumn_flat (q : QTable) (x : Nat) :
    rowPassColumn blk q x = onlyFirst (fastValue rowShape (blk 0 * (q[0]).setWidth 32)) := by
  have hfirst : eightGet (pass8 rowShape (dequantRow blk q 0)) x = fastValue rowShape (blk 0 * (q[0]).setWidth 32) := by
    rw [dequantRow_flat_zero hflat, pass8_onlyFirst, eightGet_const]
  have hrest : ∀ r, eightGet (pass8 rowShape (dequantRow blk q (r + 1))) x = 0#32 := fun r => by
    rw [dequantRow_flat_succ hflat, pass8_onlyFirst, eightGet_const, fastValue_row_zero]
  simp only [rowPassColumn, eightOf, onlyFirst, hfirst, hrest 0, hrest 1, hrest 2, hrest 3, hrest 4, hrest 5, hrest 6]

/-- Both passes of a flat block take the fast path. -/
theorem idct8x8_flat (q : QTable) (y x : Nat) : eightGet (eightGet (idct8x8 blk q) y) x =
    levelShift (fastValue colShape (fastValue rowShape (blk 0 * (q[0]).setWidth 32))) := by
  rw [idct8x8_sample, rowPassColumn_flat hflat, pass8_onlyFirst, eightGet_const]

end Flat

/-- Settles O52: both passes of a flat block take the fast path; the row 2, 0, ..., 0 by computation. -/
theorem flatBlocksGiveFlatTiles : Obligations.FlatBlocksGiveFlatTiles := by
  refine ⟨fun d q blk x y hd hflat hx hy => ?_, by decide, by decide⟩
  subst hd
  rw [tile_getElem? _ hy hx, idct8x8_flat hflat]
  rfl

end Sys2Proof.Machine

/-! BUILD_COMPONENTS (45 R270, R271, R273): where each tile stands in the lines, and that built lines stay. -/

namespace Sys2Proof.Machine

open Sys2Proof.Safety

variable {s : State} {kind : IdctKind} {qt : Store QTable} {c : Comp} {q : QTable}

/-! Lines of tiles. -/

/-- Pieces of one length side by side: position `m * i + j` is position `j` of piece `i`. -/
theorem getElem?_flatMap_of_length {α β : Type} {m : Nat} {g : α → List β} (hlength : ∀ a, (g a).length = m)
    {j : Nat} (hj : j < m) : ∀ (l : List α) (i : Nat), (l.flatMap g)[m * i + j]? = l[i]?.bind fun a => (g a)[j]?
  | [], _ => rfl
  | a :: l, 0 => by
    rw [List.flatMap_cons, Nat.mul_zero, Nat.zero_add, List.getElem?_append_left (by rwa [hlength])]
    rfl
  | a :: l, i + 1 => by
    have hskip : m * (i + 1) + j - m = m * i + j := by rw [Nat.mul_succ]; omega
    rw [List.flatMap_cons, List.getElem?_append_right (by rw [hlength, Nat.mul_succ]; omega), hlength, hskip,
      getElem?_flatMap_of_length hlength hj l i]
    rfl

/-- Line y of a block row. -/
theorem rowLines_getElem? (tiles : List Tile) : ∀ {y : Nat}, y < 8 →
    (rowLines tiles)[y]? = some (tiles.flatMap fun t => eightList (eightGet t y))
  | 0, _ | 1, _ | 2, _ | 3, _ | 4, _ | 5, _ | 6, _ | 7, _ => rfl
  | n + 8, h => absurd h (by omega)

/-- Sample (8 * row + y, 8 * col + x) of a component is sample (y, x) of block (row, col)'s tile (45 R271). -/
theorem compLines_getElem? (kind : IdctKind) (c : Comp) (q : QTable) {row col y x : Nat} (hrow : row < c.bpc)
    (hcol : col < c.bpl) (hy : y < 8) (hx : x < 8) :
    ((compLines kind c q)[8 * row + y]?.bind fun ln => ln[8 * col + x]?) =
      ((eightList (tileOf kind c q row col))[y]?.bind fun ln => (eightList ln)[x]?) := by
  have hline : (compLines kind c q)[8 * row + y]? =
      some (((List.range c.bpl).map fun col => tileOf kind c q row col).flatMap fun t => eightList (eightGet t y)) := by
    rw [compLines, getElem?_flatMap_of_length (m := 8) (fun _ => rfl) hy, List.getElem?_range hrow]
    exact rowLines_getElem? _ hy
  rw [hline, tile_getElem? _ hy hx, Option.bind_some, getElem?_flatMap_of_length (m := 8) (fun _ => rfl) hx,
    List.getElem?_map, List.getElem?_range hcol]
  exact eightList_getElem? _ hx

/-! The components' lines. -/

/-- There are no lines exactly where a component's table is absent. -/
theorem buildPlanes_eq_none_iff : ∀ {comps : List Comp},
    buildPlanes kind qt comps = none ↔ ∃ c ∈ comps, storeGet c.tq qt = none
  | [] => by simp [buildPlanes]
  | c :: comps => by
    have ih := buildPlanes_eq_none_iff (comps := comps)
    rw [List.exists_mem_cons_iff, ← ih, buildPlanes]
    cases storeGet c.tq qt with
    | none => simp
    | some q => cases buildPlanes kind qt comps <;> simp

/-- Component i's lines are made of its own blocks with its own table. -/
theorem buildPlanes_getElem? : ∀ {comps : List Comp} {planes : List Plane} {i : Nat},
    buildPlanes kind qt comps = some planes → comps[i]? = some c → storeGet c.tq qt = some q →
    planes[i]? = some (compLines kind c q)
  | c' :: comps, planes, i, h, hi, hq => by
    simp only [buildPlanes] at h
    split at h
    · cases h
    rename_i q' hq'
    split at h
    · cases h
    rename_i rest hrest
    cases h
    cases i with
    | zero =>
      cases hi
      cases hq'.symm.trans hq
      rfl
    | succ i => exact buildPlanes_getElem? (comps := comps) (i := i) hrest hi hq

/-! The command. -/

/-- The planes that BUILD_COMPONENTS makes are its lines, and nothing else changes. -/
theorem exec_buildComponents_built {f : Frame} {planes : List Plane} (hf : s.dec.frame = some f)
    (hb : s.built = false) (hplanes : buildPlanes s.params.idct s.qt f.comps = some planes) :
    exec .buildComponents s = .next (ended { s with lines := some planes }) := by
  show endCommand s (buildComponents s) = _
  simp only [buildComponents, hf, hb, hplanes]
  rfl

theorem exec_buildComponents_missing {f : Frame} (hf : s.dec.frame = some f) (hb : s.built = false)
    (hplanes : buildPlanes s.params.idct s.qt f.comps = none) :
    exec .buildComponents s = .next (failed .qtMissing s.streamPos s) := by
  show endCommand s (buildComponents s) = _
  simp only [buildComponents, hf, hb, hplanes]
  rfl

/-- Without a frame, or with its lines built, the command is out of sequence. -/
theorem exec_buildComponents_refused (h : ¬ scanOpen s) :
    exec .buildComponents s = .next (failed .sequence s.streamPos s) := by
  show endCommand s (buildComponents s) = _
  cases hf : s.dec.frame with
  | none => simp only [buildComponents, hf]; rfl
  | some f =>
    have hb : s.built = true := by
      by_contra hb
      exact h ⟨by rw [State.frameValid, hf]; rfl, by simpa using hb⟩
    simp only [buildComponents, hf, hb]
    rfl

/-- Settles O53: with every table there the planes are the components' tiles, and otherwise a check refuses. -/
theorem buildPlacesEveryTile : Obligations.BuildPlacesEveryTile := by
  refine ⟨fun s f hf hb htables => ?_, fun s => exec_buildComponents_refused, fun s f c hf hb hc hq => ?_,
    fun blk q y x => idct8x8_eq_idctByRules blk q⟩
  · have hall : buildPlanes s.params.idct s.qt f.comps ≠ none := fun hnone => by
      obtain ⟨c, hc, hq⟩ := buildPlanes_eq_none_iff.mp hnone
      exact absurd hq (Option.isSome_iff_ne_none.mp (htables c hc))
    obtain ⟨planes, hplanes⟩ := Option.ne_none_iff_exists'.mp hall
    refine ⟨planes, exec_buildComponents_built hf hb hplanes, planesWf_buildPlanes _ _ hplanes, ?_⟩
    intro i c q row col y x hi hq hrow hcol hy hx
    rw [buildPlanes_getElem? hplanes hi hq]
    exact ⟨compLines_getElem? _ c q hrow hcol hy hx, fun hkind => by rw [hkind, inverseTransform_standard]⟩
  · exact exec_buildComponents_missing hf hb (buildPlanes_eq_none_iff.mpr ⟨c, hc, hq⟩)

/-! Built lines stay (45 R273). -/

theorem not_scanOpen_of_built (h : s.built = true) : ¬ scanOpen s := fun ⟨_, hb⟩ => by
  rw [h] at hb
  cases hb

/-- No instruction but CLEAR changes built lines: BUILD_COMPONENTS refuses, and no other writes lines. -/
theorem exec_keeps_lines {i : Instr} {t : State} {planes : List Plane} (h : exec i s = .next t)
    (hlines : s.lines = some planes) (hclear : i ≠ .clear) : t.lines = some planes := by
  by_cases hi : i = .buildComponents
  · have hbuilt : s.built = true := by rw [State.built, hlines]; rfl
    rw [hi, exec_buildComponents_refused (not_scanOpen_of_built hbuilt)] at h
    cases h
    exact hlines
  · rw [exec_lines h hclear hi, hlines]

/-- Settles O54: instructions and host writes keep the lines, and the two commands that need an open frame refuse. -/
theorem builtLinesAreReadOnly : Obligations.BuiltLinesAreReadOnly := by
  refine ⟨fun i s t p h hlines hclear => ?_, fun _ _ s hreset => (qt_lines_busWrite hreset s).2, fun s hbuilt => ?_⟩
  · have hkept := exec_keeps_lines h hlines hclear
    exact ⟨hkept, by rw [State.built, hkept]; rfl⟩
  · have hopen := not_scanOpen_of_built hbuilt
    obtain ⟨hscan, -⟩ := scanChecksRefuseInOrder s
    exact ⟨exec_buildComponents_refused hopen, hscan hopen⟩

end Sys2Proof.Machine

/-! Samples (46 R295): the clamp never changes the line, so a sample is the byte of the lines at its two indices. -/

namespace Sys2Proof.Machine

open Sys2Proof.Safety

section
variable {f : Frame} {planes : List Plane} {c : Comp} {i ow oh x y : Nat}
variable (hf : frameWf f) (hc : f.comps[i]? = some c) (hx : x < ow) (hy : y < oh)
include hf hc hx hy

/-- Both indices of a component's sample lie in its lines, in every arithmetic. -/
theorem sampleIndices_lt (arith : ColorArith) :
    sampleIndex arith x f.samplesPerLine c.h ow f.maxH (8 * c.bpl) < 8 * c.bpl ∧
    sampleIndex arith y f.scanLines c.v oh f.maxV (8 * c.bpc) < 8 * c.bpc := by
  obtain ⟨-, ⟨hw, -⟩, ⟨hh, -⟩, -, -, -, -, -, hcomps, -⟩ := hf
  obtain ⟨⟨hh1, -⟩, ⟨hv1, -⟩, hhmax, hvmax, -, hbpl, hbpc, -⟩ := hcomps c (List.mem_of_getElem? hc)
  rw [hbpl, hbpc]
  exact ⟨sampleIndex_lt hx hw hh1 hhmax arith, sampleIndex_lt hy hh hv1 hvmax arith⟩

/-- The getLine clamp leaves the line as it is. -/
theorem sample_eq_lines (arith : ColorArith) : sample arith f planes ow oh x y i =
    planes[i]?.bind fun p => p[sampleIndex arith y f.scanLines c.v oh f.maxV (8 * c.bpc)]?.bind fun ln =>
      ln[sampleIndex arith x f.samplesPerLine c.h ow f.maxH (8 * c.bpl)]? := by
  have hline := (sampleIndices_lt hf hc hx hy arith).2
  unfold sample
  rw [hc]
  cases planes[i]? with
  | none => rfl
  | some plane =>
    dsimp only
    rw [Nat.min_eq_left (Nat.le_sub_one_of_lt hline), Option.bind_some]
    cases plane[sampleIndex arith y f.scanLines c.v oh f.maxV (8 * c.bpc)]? <;> rfl

theorem exists_sample (hplanes : planesWf f.comps planes) (arith : ColorArith) :
    ∃ b, sample arith f planes ow oh x y i = some b :=
  Option.isSome_iff_exists.mp
    (sample_isSome hf hplanes (List.getElem?_eq_some_iff.mp hc).1 hx hy)

end

/-- Settles O55: the indices are below the lines' size, so the sample is read there and its line is not clamped. -/
theorem samplesLieInTheirLines : Obligations.SamplesLieInTheirLines := by
  intro f planes i c ow oh x y hf hplanes hc hx hy
  have hlt := sampleIndices_lt hf hc hx hy
  have hlines := sample_eq_lines (planes := planes) hf hc hx hy
  have hsome := exists_sample hf hc hx hy hplanes
  refine ⟨(hlt .exact).1, (hlt .exact).2, ?_, fun arith => ?_⟩
  · obtain ⟨b, hb⟩ := hsome .exact
    exact ⟨b, hb, (hlines .exact).symm.trans hb⟩
  · obtain ⟨b, hb⟩ := hsome arith
    exact ⟨b, _, _, hb, (hlt arith).1, (hlt arith).2, (hlines arith).symm.trans hb⟩

end Sys2Proof.Machine

/-! The conversions of one pixel (46 R296 to R302): their events, their arithmetic in the rationals, and the rows of
the opcode table that run them. -/

namespace Sys2Proof.Machine

open Sys2Proof.Safety

/-! The event of each conversion, from the samples it reads. -/

section
variable {arith : ColorArith} {x y : Nat} {v : Nat → Option Byte} {a b c k : Byte}

theorem pixelEvent_grayYcc (ha : v 0 = some a) :
    pixelEvent arith .grayYcc x y v = some (yccEvent x y a 0#8 0#8) := by
  simp only [pixelEvent, ha]

theorem pixelEvent_grayRgb (ha : v 0 = some a) :
    pixelEvent arith .grayRgb x y v = some (rgbEvent x y (a, a, a)) := by
  simp only [pixelEvent, ha]

theorem pixelEvent_dual (ha : v 0 = some a) (hb : v 1 = some b) :
    pixelEvent arith .dual x y v = some (.s2 (BitVec.ofNat 16 x) (BitVec.ofNat 16 y) a b) := by
  simp only [pixelEvent, ha, hb]

theorem pixelEvent_yccPass (ha : v 0 = some a) (hb : v 1 = some b) (hc : v 2 = some c) :
    pixelEvent arith .yccPass x y v = some (yccEvent x y a b c) := by
  simp only [pixelEvent, ha, hb, hc]

theorem pixelEvent_yccRgb (ha : v 0 = some a) (hb : v 1 = some b) (hc : v 2 = some c) :
    pixelEvent arith .yccRgb x y v = some (rgbEvent x y (yccToRgb arith a b c)) := by
  simp only [pixelEvent, ha, hb, hc]

theorem pixelEvent_cmykRgb (ha : v 0 = some a) (hb : v 1 = some b) (hc : v 2 = some c) (hk : v 3 = some k) :
    pixelEvent arith .cmykRgb x y v = some (rgbEvent x y (cmykToRgb a b c k)) := by
  simp only [pixelEvent, ha, hb, hc, hk]

theorem pixelEvent_ycckRgb (ha : v 0 = some a) (hb : v 1 = some b) (hc : v 2 = some c) (hk : v 3 = some k) :
    pixelEvent arith .ycckRgb x y v = some (rgbEvent x y (ycckToRgb arith a b c k)) := by
  simp only [pixelEvent, ha, hb, hc, hk]

end

/-! The arithmetic: the model's integers over 10^6, and its naturals over 255, as clamped rationals. -/

theorem clamp8_eq_clampRat (num : Int) : clamp8 num = clampRat ((num : ℚ) / 1000000) := by
  have hneg : (num : ℚ) / 1000000 < 0 ↔ num < 0 := by
    rw [div_lt_iff₀ (by norm_num), zero_mul, Int.cast_lt_zero]
  have hbig : 255 < (num : ℚ) / 1000000 ↔ 255 * 1000000 < num := by
    rw [lt_div_iff₀ (by norm_num)]
    exact_mod_cast Iff.rfl
  have hfloor : ⌊(num : ℚ) / 1000000⌋ = num / 1000000 := Rat.floor_intCast_div_natCast num 1000000
  simp only [clamp8, clampRat, hneg, hbig, hfloor]

/-- 46 R300's three results, in exact arithmetic with the constants as exact decimals. -/
theorem yccToRgb_eq_clampRat (arith : ColorArith) (l cb cr : Byte) : ∃ red green blue : Byte,
    yccToRgb arith l cb cr = (red, green, blue) ∧ (arith = .exact →
      red = clampRat (l.toNat + (1402 / 1000 : ℚ) * ((cr.toNat : ℚ) - 128)) ∧
      green = clampRat (l.toNat - (344136 / 1000000 : ℚ) * ((cb.toNat : ℚ) - 128) -
        (714136 / 1000000 : ℚ) * ((cr.toNat : ℚ) - 128)) ∧
      blue = clampRat (l.toNat + (1772 / 1000 : ℚ) * ((cb.toNat : ℚ) - 128))) := by
  refine ⟨_, _, _, rfl, ?_⟩
  rintro rfl
  simp only [yccToRgbExact, clamp8_eq_clampRat]
  refine ⟨congrArg clampRat ?_, congrArg clampRat ?_, congrArg clampRat ?_⟩ <;>
    · push_cast
      ring

/-- 46 R301's floor needs no clamp, as the product of two bytes over 255 is at most 255. -/
theorem scaleByK_eq_clampRat (a k : Byte) : scaleByK a k = clampRat ((a.toNat : ℚ) * k.toNat / 255) := by
  have hle : a.toNat * k.toNat ≤ 255 * 255 :=
    Nat.mul_le_mul (Nat.le_of_lt_succ a.isLt) (Nat.le_of_lt_succ k.isLt)
  have hfloor : ⌊(a.toNat : ℚ) * k.toNat / 255⌋ = ((a.toNat * k.toNat / 255 : Nat) : Int) := by
    rw [← Nat.cast_mul]
    exact Rat.floor_natCast_div_natCast _ 255
  have hneg : ¬ (a.toNat : ℚ) * k.toNat / 255 < 0 := not_lt.mpr (by positivity)
  have hbig : ¬ 255 < (a.toNat : ℚ) * k.toNat / 255 := by
    rw [not_lt, div_le_iff₀ (by norm_num)]
    exact_mod_cast hle
  rw [clampRat, if_neg hneg, if_neg hbig, hfloor, BitVec.ofInt_natCast, scaleByK]

theorem rgbEvent_cmykToRgb (x y : Nat) (c m ye k : Byte) : rgbEvent x y (cmykToRgb c m ye k) =
    .rgb (BitVec.ofNat 16 x) (BitVec.ofNat 16 y) (clampRat ((c.toNat : ℚ) * k.toNat / 255))
      (clampRat ((m.toNat : ℚ) * k.toNat / 255)) (clampRat ((ye.toNat : ℚ) * k.toNat / 255)) := by
  simp only [rgbEvent, cmykToRgb, scaleByK_eq_clampRat]

/-! The rows. -/

section
variable {s : State} {f : Frame} {planes : List Plane} {cv : Conversion} {e : Event}

/-- A row emits its conversion's event and moves to the next pixel. -/
theorem emitPixel_eq_emitted (hf : s.dec.frame = some f) (hlines : s.lines = some planes)
    (he : pixelEvent s.params.colorArith cv s.px s.py (pixelSample s f planes) = some e) :
    emitPixel cv s = .next (emitted e s) := by
  have he' : pixelEvent s.params.colorArith cv s.px s.py
      (sample s.params.colorArith f planes (outW s) (outH s) s.px s.py) = some e := he
  simp only [emitPixel, hf, hlines, he', nextPixel, emitted]
  split <;> rfl

end

/-- Settles O58: each of these rows runs a conversion that copies the samples into its event. -/
theorem copyingColorRowsEmit : Obligations.CopyingColorRowsEmit := by
  intro s f planes a hf hlines ha x y
  have hycc := emitPixel_eq_emitted hf hlines (pixelEvent_grayYcc ha)
  have hrgb := emitPixel_eq_emitted hf hlines (pixelEvent_grayRgb ha)
  refine ⟨?_, ?_, fun b hb => ⟨?_, fun c hc => emitPixel_eq_emitted hf hlines (pixelEvent_yccPass ha hb hc)⟩⟩
  · rintro i (rfl | rfl | rfl) <;> exact hycc
  · rintro i (rfl | rfl | rfl) <;> exact hrgb
  · have hdual := emitPixel_eq_emitted hf hlines (pixelEvent_dual ha hb)
    rintro i (rfl | rfl | rfl | rfl | rfl | rfl) <;> exact hdual

/-- Settles O59: the row's event has the three results of `yccToRgb`, which in exact arithmetic are the rationals'. -/
theorem yCbCrRowEmitsClampedRgb : Obligations.YCbCrRowEmitsClampedRgb := by
  intro s f planes l cb cr hf hlines hl hcb hcr
  obtain ⟨red, green, blue, hrgb, hexact⟩ := yccToRgb_eq_clampRat s.params.colorArith l cb cr
  have hrow := emitPixel_eq_emitted hf hlines (pixelEvent_yccRgb hl hcb hcr)
  rw [hrgb] at hrow
  exact ⟨red, green, blue, hrow, hexact⟩

/-- Settles O60: CMYK is scaled by K, and so is what the results of `yccToRgb` leave of 255 for YCCK. -/
theorem cmykAndYcckRowsEmitRgb : Obligations.CmykAndYcckRowsEmitRgb := by
  intro s f planes v₀ v₁ v₂ k hf hlines h₀ h₁ h₂ hk x y scale
  obtain ⟨red, green, blue, hrgb, hexact⟩ := yccToRgb_eq_clampRat s.params.colorArith v₀ v₁ v₂
  have hcmyk := emitPixel_eq_emitted hf hlines (pixelEvent_cmykRgb h₀ h₁ h₂ hk)
  have hycck := emitPixel_eq_emitted hf hlines (pixelEvent_ycckRgb h₀ h₁ h₂ hk)
  rw [rgbEvent_cmykToRgb] at hcmyk
  rw [ycckToRgb, hrgb, rgbEvent_cmykToRgb] at hycck
  refine ⟨?_, red, green, blue, ?_, hexact⟩
  · rintro i (rfl | rfl) <;> exact hcmyk
  · rintro i (rfl | rfl) <;> exact hycck

end Sys2Proof.Machine

/-! COLOR_CONVERT (46 R290 to R294): its refusals, the dispatch table's conversions, and the image it emits. -/

namespace Sys2Proof.Machine

open Sys2Proof.Safety

variable {s : State} {f : Frame} {planes : List Plane} {cv : Conversion} {n : Nat} {src out : BitVec 2}

/-! The checks (46 R291, R292). -/

theorem colorRejected_iff (s : State) (n : Nat) : colorRejected s n (srcCs s) = true ↔ colorRefused s n := by
  simp only [colorRejected, colorRefused, adobePresent, adobeCs, bitsAt, Bool.or_eq_true, Bool.and_eq_true,
    decide_eq_true_eq, beq_iff_eq, bne_iff_ne, or_assoc, and_assoc]

/-- Only an Adobe header names RGB as the source colour space. -/
theorem srcCs_ne_rgb (h : ¬ (s.srcCsCfg.getLsbD 0 = true ∧ s.srcCsCfg.extractLsb' 4 2 = 1#2)) : srcCs s ≠ 1#2 := by
  intro hsrc
  unfold srcCs at hsrc
  split at hsrc
  · exact h ⟨‹_›, hsrc⟩
  · split at hsrc <;> cases hsrc

theorem exec_colorConvert_noLines (h : s.frameValid = false ∨ s.built = false) :
    exec .colorConvert s = .next (failed .sequence s.streamPos s) := by
  show execColorConvert s = _
  unfold execColorConvert
  split
  · rename_i f planes hf hlines
    simp [State.frameValid, State.built, hf, hlines] at h
  · rfl

theorem exec_colorConvert_refused (hf : s.dec.frame = some f) (hlines : s.lines = some planes)
    (h : colorRefused s f.comps.length) : exec .colorConvert s = .next (failed .colorMode s.streamPos s) := by
  show execColorConvert s = _
  simp only [execColorConvert, hf, hlines, (colorRejected_iff s _).mpr h, if_true]
  rfl

/-! The dispatch table (30 R99). -/

/-- The combinations the table lists. -/
def listedKeys : List (Nat × BitVec 2 × BitVec 2) := dispatchTable.map fun row => (row.1, row.2.1, row.2.2.1)

theorem mem_listedKeys : (n, src, out) ∈ listedKeys ↔ ∃ i cv, (n, src, out, i, cv) ∈ dispatchTable := by
  simp [listedKeys]

/-- Exactly the listed combinations have a conversion. -/
theorem conversionOf_isSome_iff : (conversionOf n src out).isSome = true ↔ (n, src, out) ∈ listedKeys := by
  match n with
  | 0 | 1 | 2 | 3 | 4 => revert src out; decide
  | n + 5 => simp [conversionOf, listedKeys, dispatchTable]

theorem dispatchTable_rows : ∀ row ∈ dispatchTable, conversionOf row.1 row.2.1 row.2.2.1 = some row.2.2.2.2 ∧
    encode row.2.2.2.1 =
      (.colorDispatch, BitVec.ofNat 32 (16 * row.1 + 4 * row.2.1.toNat + row.2.2.1.toNat)) := by
  decide

/-- Each listed row of the opcode table runs its listed conversion. -/
theorem exec_eq_emitPixel_of_listed : ∀ row ∈ dispatchTable, exec row.2.2.2.1 = emitPixel row.2.2.2.2 :=
  List.map_inj_left.mp rfl

/-- A frame that passes the checks has a conversion (46 R291). -/
theorem conversionOf_isSome_of_not_refused (h₁ : 1 ≤ n) (h₄ : n ≤ 4) (h : ¬ colorRefused s n) :
    (conversionOf n (srcCs s) (outCs s)).isSome = true := by
  simp only [colorRefused, not_or] at h
  obtain ⟨hout, hrgb, h3, h4⟩ := h
  have hsrc := srcCs_ne_rgb hrgb
  generalize srcCs s = src, outCs s = out at *
  interval_cases n <;> revert src out <;> decide

/-- Settles O57: a check that fails refuses, and what none refuses is listed. -/
theorem colorChecksRefuse : Obligations.ColorChecksRefuse :=
  ⟨fun _ => exec_colorConvert_noLines, fun s _ _ hf hlines => ⟨exec_colorConvert_refused hf hlines,
    fun h₁ h₄ hpass => ⟨Bool.eq_false_iff.mpr fun h => hpass ((colorRejected_iff s _).mp h),
      conversionOf_isSome_of_not_refused h₁ h₄ hpass⟩⟩, fun _ _ _ _ => rfl⟩

/-! The image (46 R293, R294). -/

theorem eq_map_some_of_collect {α : Type} : ∀ {xs : List (Option α)} {ys : List α},
    collect xs = some ys → xs = ys.map some
  | [], _, h => by cases h; rfl
  | none :: _, _, h => by cases h
  | some a :: rest, ys, h => by
    rw [collect] at h
    split at h
    · rename_i more hmore
      cases h
      rw [eq_map_some_of_collect hmore, List.map_cons]
    · cases h

theorem length_pixelOrder (ow oh : Nat) : (pixelOrder ow oh).length = ow * oh := by
  simp [pixelOrder, Nat.mul_comm]

theorem pixelOrder_getElem? {ow oh x y : Nat} (hx : x < ow) (hy : y < oh) :
    (pixelOrder ow oh)[y * ow + x]? = some (x, y) := by
  rw [pixelOrder, Nat.mul_comm, getElem?_flatMap_of_length (by simp) hx]
  simp [hx, hy]

section
variable {arith : ColorArith} {ow oh : Nat} {events : List Event}
variable (h : pixelEvents arith cv f planes ow oh = some events)
include h

theorem length_pixelEvents : events.length = ow * oh := by
  simpa [length_pixelOrder] using (congrArg List.length (eq_map_some_of_collect h)).symm

theorem pixelEvents_getElem? {x y : Nat} (hx : x < ow) (hy : y < oh) : ∃ e, events[y * ow + x]? = some e ∧
    pixelEvent arith cv x y (sample arith f planes ow oh x y) = some e := by
  have hget := congrArg (·[y * ow + x]?) (eq_map_some_of_collect h)
  simp only [List.getElem?_map, pixelOrder_getElem? hx hy, Option.map_some] at hget
  obtain ⟨e, he, heq⟩ := Option.map_eq_some_iff.mp hget.symm
  exact ⟨e, he, heq.symm⟩

end

theorem ofNat_outW (s : State) : BitVec.ofNat 16 (outW s) = s.outSize.extractLsb' 0 16 := by
  simp only [outW, fieldNat, bitsAt, BitVec.ofNat_toNat, BitVec.setWidth_eq]

theorem ofNat_outH (s : State) : BitVec.ofNat 16 (outH s) = s.outSize.extractLsb' 16 16 := by
  simp only [outH, fieldNat, bitsAt, BitVec.ofNat_toNat, BitVec.setWidth_eq]

/-- COLOR_CONVERT extends the sink by ALLOC and the image's events, and nothing else changes. -/
theorem exec_colorConvert_image {events : List Event} (hf : s.dec.frame = some f) (hlines : s.lines = some planes)
    (hpass : colorRejected s f.comps.length (srcCs s) = false)
    (hcv : conversionOf f.comps.length (srcCs s) (outCs s) = some cv)
    (hevents : pixelEvents s.params.colorArith cv f planes (outW s) (outH s) = some events) :
    exec .colorConvert s = .next (ended { s with sink := (s.sink ++
      .alloc (s.outSize.extractLsb' 0 16) (s.outSize.extractLsb' 16 16) (srcCs s) f.comps.length :: events) }) := by
  show execColorConvert s = _
  simp only [execColorConvert, hf, hlines, hpass, hcv, emitImage, hevents, ofNat_outW, ofNat_outH]
  rfl

/-- A listed row run at a pixel emits the event that the image has there. -/
theorem exec_listed_atPixel {i : Instr} {e : Event} {x y : Nat} (hf : s.dec.frame = some f)
    (hlines : s.lines = some planes) (hrow : (n, src, out, i, cv) ∈ dispatchTable)
    (he : pixelEvent s.params.colorArith cv x y
      (sample s.params.colorArith f planes (outW s) (outH s) x y) = some e) :
    exec i (atPixel x y s) = .next (emitted e (atPixel x y s)) := by
  rw [exec_eq_emitPixel_of_listed _ hrow]
  exact emitPixel_eq_emitted (s := atPixel x y s) hf hlines he

/-- Settles O56: the checks leave a listed conversion, which has an event for every pixel as each sample is there. -/
theorem colorConvertEmitsTheImage : Obligations.ColorConvertEmitsTheImage := by
  refine ⟨fun s f planes hs hf hlines hpass => ?_, fun n src out i cv hrow => dispatchTable_rows _ hrow,
    fun n src out hunlisted => ?_⟩
  · have hwf := frameWf_of_stateInv hs hf
    have ⟨⟨h₁, h₄⟩, _⟩ := hwf
    have hrefused : ¬ colorRefused s f.comps.length := by
      rw [← colorRejected_iff, hpass]
      exact Bool.false_ne_true
    obtain ⟨i, cv, hrow⟩ := mem_listedKeys.mp
      (conversionOf_isSome_iff.mp (conversionOf_isSome_of_not_refused h₁ h₄ hrefused))
    obtain ⟨hcv, -⟩ := dispatchTable_rows _ hrow
    obtain ⟨events, hevents⟩ := Option.isSome_iff_exists.mp (pixelEvents_isSome (arith := s.params.colorArith) hwf
      (planesWf_of_stateInv hs hf hlines) (conversionOf_inputs hcv) (outW s) (outH s))
    refine ⟨i, cv, events, hrow, exec_colorConvert_image hf hlines hpass hcv hevents, length_pixelEvents hevents,
      fun x y hx hy => ?_⟩
    obtain ⟨e, hget, he⟩ := pixelEvents_getElem? hevents hx hy
    exact ⟨e, hget, he, exec_listed_atPixel hf hlines hrow he⟩
  · rw [← Option.not_isSome_iff_eq_none, conversionOf_isSome_iff, mem_listedKeys]
    rintro ⟨i, cv, hrow⟩
    exact hunlisted i cv hrow

end Sys2Proof.Machine

/-! The ghost flags (70 R359): they remember every error, abort and discard, and nothing clears one, SOFT_RESET
included (log 14). -/

namespace Sys2Proof.Machine

open Sys2Proof.Safety

variable {s t u : State} {i : Instr}

/-! What an instruction does to the abort's record (44 R216, R224). -/

/-- SCAN_ABORTED, the ghost flag and ABORT_CAUSE, unless it was cleared, are as they were, or an abort has set the
flag. -/
def AbortKept (s t : State) : Prop :=
  ((t.abortCause = s.abortCause ∨ t.abortCause = .none) ∧ t.scanAborted = s.scanAborted ∧ t.abortSeen = s.abortSeen) ∨
    t.abortSeen = true

theorem AbortKept.refl (s : State) : AbortKept s s := .inl ⟨.inl rfl, rfl, rfl⟩

/-- Of the early ends of a scan's rule only an abort writes the record, and it sets the ghost flag. -/
theorem endScanBy_abortKept {e : Exit} {d : Decoder} (h : endScanBy s e d = .next t) : AbortKept s t := by
  rcases endScanBy_next h with ⟨c, -, rfl⟩ | ⟨m, -, rfl⟩ | ⟨c, -, rfl⟩ | ⟨c, pos, -, rfl⟩
  · exact .inr rfl
  · exact .refl s
  · exact .refl s
  · exact .refl s

theorem runRule_abortKept {rule : Decoder → Res Unit} (h : runRule s rule = .next t) : AbortKept s t := by
  rcases runRule_cases s rule with ⟨-, h'⟩ | ⟨-, d, -, h'⟩ | ⟨-, e, d, -, h'⟩
  · cases h'.symm.trans h; exact .refl s
  · cases h'.symm.trans h; exact .refl s
  · exact endScanBy_abortKept (h'.symm.trans h)

theorem runMode_abortKept {mode : ScanMode} (h : runMode mode s = .next t) : AbortKept s t := runRule_abortKept h

theorem runDc_abortKept {rule : Nat → Decoder → Res Unit} (h : runDc s rule = .next t) : AbortKept s t :=
  runRule_abortKept h

theorem runAc_abortKept {rule : AcKind → Decoder → Res Unit} (h : runAc s rule = .next t) : AbortKept s t :=
  runRule_abortKept h

theorem markerEndsScan_abortKept {m : Half} (h : markerEndsScan m s = .next t) : AbortKept s t := by
  rw [markerEndsScan_eq] at h
  cases h
  split
  · exact .refl s
  · exact .refl s

theorem restartMarker_abortKept {m : Half} (h : restartMarker m s = .next t) : AbortKept s t := by
  rw [restartMarker_eq] at h
  cases h
  split
  · split
    · exact .refl s
    · exact .refl s
  · exact .refl s

/-- The start of a scan clears ABORT_CAUSE (44 R216), and no more of the record. -/
theorem abortKept_of_startScan {f : Frame} (h : AbortKept (startScan s f) t) : AbortKept s t := by
  rcases h with ⟨hcause, haborted, hseen⟩ | hseen
  · exact .inl ⟨.inr (hcause.elim id id), haborted, hseen⟩
  · exact .inr hseen

theorem execDecodeScan_abortKept (h : execDecodeScan s = .next t) : AbortKept s t := by
  rcases execDecodeScan_next h with ⟨c, rfl⟩ | ⟨f, -, -, ⟨m, d, rfl⟩ | ⟨e, d, hend⟩⟩
  · exact .refl s
  · exact abortKept_of_startScan (.refl (startScan s f))
  · exact abortKept_of_startScan (endScanBy_abortKept hend)

/-- DECODE_SCAN and the rows met in a scan. -/
theorem exec_abortKept_of_isScanInstr (hi : IsScanInstr i) (h : exec i s = .next t) : AbortKept s t := by
  cases i with
  | decodeScan => exact execDecodeScan_abortKept h
  | baseline | dcFirst | dcSucc | acFirst | acSucc => exact runMode_abortKept h
  | dcDiff t => exact runDc_abortKept (rule := fun sh => dcCategory s.streamByte sh t.toNat) h
  | dcReserved16 | dcReserved32 | dcReserved64 | dcReserved128 => exact runDc_abortKept (rule := fun _ => dcBadCategory) h
  | acZrl => exact runAc_abortKept h
  | acEob0 r | acEob8 r | acEob12 r => exact runAc_abortKept (rule := fun a => acEob s.streamByte a r.toNat) h
  | acEob14 => exact runAc_abortKept (rule := fun a => acEob s.streamByte a 14) h
  | acRunSize1 r => exact runAc_abortKept (rule := fun a => acRunSize s.streamByte a r.toNat 1) h
  | acRunSize2 r sz | acRunSize4 r sz | acRunSize8 r sz =>
    exact runAc_abortKept (rule := fun a => acRunSize s.streamByte a r.toNat sz.toNat) h
  | acSuccCorrectionBit => exact runRule_abortKept h
  | stuffedFF => exact runRule_abortKept (rule := fun d => (deliver 0xFF#8 d).andThen fun _ d' => .ok () d') h
  | soi | eoi | sof0 | sof2 | dht | dqt | sos | dri | app | com => exact markerEndsScan_abortKept h
  | rst => exact restartMarker_abortKept h
  | _ => simp [IsScanInstr, encode] at hi

/-- Outside a scan CLEAR alone writes the record: it clears ABORT_CAUSE and leaves the ghost flag (40 R124). -/
theorem exec_abortKept (h : exec i s = .next t) : AbortKept s t := by
  cases exec_progress h with
  | clear => exact .inl ⟨.inr rfl, rfl, rfl⟩
  | tables _ hsame => rw [hsame]; exact .refl s
  | image _ hsame => rw [hsame]; exact .refl s
  | scan hi => exact exec_abortKept_of_isScanInstr hi h
  | _ => exact .refl s

/-! The parts of a step. -/

/-- From `s` to `t` the flags keep remembering, and none is cleared. -/
def GhostsKept (s t : State) : Prop :=
  (ghostsInv s → ghostsInv t) ∧ (s.faultSeen = true → t.faultSeen = true) ∧
    (s.abortSeen = true → t.abortSeen = true) ∧ (s.discardSeen = true → t.discardSeen = true)

theorem GhostsKept.refl (s : State) : GhostsKept s s := ⟨id, id, id, id⟩

theorem GhostsKept.trans (h : GhostsKept s t) (h' : GhostsKept t u) : GhostsKept s u := by
  obtain ⟨hinv, hfault, habort, hdiscard⟩ := h
  obtain ⟨hinv', hfault', habort', hdiscard'⟩ := h'
  exact ⟨hinv' ∘ hinv, hfault' ∘ hfault, habort' ∘ habort, hdiscard' ∘ hdiscard⟩

/-- A discarded write or command (40 R120, R126). -/
theorem ghostsKept_discard (s : State) : GhostsKept s { s with overrun := true, discardSeen := true } :=
  ⟨fun ⟨hfault, hcause, haborted, _⟩ => ⟨hfault, hcause, haborted, fun _ => rfl⟩, id, id, fun _ => rfl⟩

/-- SOFT_RESET clears what the flags remember, and leaves the flags. -/
theorem ghostsKept_softReset (s : State) : GhostsKept s (softReset s) :=
  ⟨fun _ => ⟨fun h => (h rfl).elim, fun h => (h rfl).elim, nofun, nofun⟩, id, id, id⟩

/-- CLEAR clears ERR_CODE and ABORT_CAUSE (40 R124), and leaves SCAN_ABORTED, OVERRUN and the flags. -/
theorem ghostsKept_clear (s : State) : GhostsKept s (finish (clearState s)) :=
  ⟨fun ⟨_, _, haborted, hdiscard⟩ => ⟨fun h => (h rfl).elim, fun h => (h rfl).elim, haborted, hdiscard⟩, id, id, id⟩

/-- A write to STATUS can clear SCAN_ABORTED and OVERRUN, and sets neither (10 R24). -/
theorem ghostsKept_writeStatus (w : Word) (s : State) : GhostsKept s (writeStatus w s) := by
  refine ⟨fun ⟨hfault, hcause, haborted, hdiscard⟩ => ⟨hfault, hcause, fun h => haborted ?_, fun h => hdiscard ?_⟩,
    id, id, id⟩
  · exact Bool.and_elim_left h
  · exact Bool.and_elim_left h

theorem ghostsKept_writeReg (r : Reg) (w : Word) (s : State) : GhostsKept s (writeReg r w s) := by
  cases r with
  | ctrl =>
    simp only [writeReg, writeCtrl]
    split
    · exact ghostsKept_softReset s
    · exact .refl s
  | status => exact ghostsKept_writeStatus w s
  | _ => exact .refl s

theorem ghostsKept_busWrite (slot : BitVec 6) (w : Word) (s : State) : GhostsKept s (busWrite slot w s) := by
  cases hbusy : s.busy with
  | true => rw [busWrite_busy hbusy]; exact ghostsKept_discard s
  | false => rw [busWrite_idle hbusy]; exact ghostsKept_writeReg _ w s

theorem ErrorKept.remembers (h : ErrorKept s t) :
    ((s.errCode ≠ .none → s.faultSeen = true) → t.errCode ≠ .none → t.faultSeen = true) ∧
      (s.faultSeen = true → t.faultSeen = true) := by
  rcases h with ⟨hcode, -, hseen⟩ | ⟨-, hseen⟩
  · rw [hcode, hseen]; exact ⟨id, id⟩
  · exact ⟨fun _ _ => hseen, fun _ => hseen⟩

theorem AbortKept.remembers (h : AbortKept s t) :
    ((s.abortCause ≠ .none → s.abortSeen = true) → t.abortCause ≠ .none → t.abortSeen = true) ∧
      ((s.scanAborted = true → s.abortSeen = true) → t.scanAborted = true → t.abortSeen = true) ∧
      (s.abortSeen = true → t.abortSeen = true) := by
  rcases h with ⟨hcause, haborted, hseen⟩ | hseen
  · rw [haborted, hseen]
    refine ⟨fun hs ht => ?_, id, id⟩
    rcases hcause with hcause | hcause
    · exact hs (hcause ▸ ht)
    · exact (ht hcause).elim
  · exact ⟨fun _ _ => hseen, fun _ _ => hseen, fun _ => hseen⟩

/-- CLEAR apart, an instruction keeps the three records. -/
theorem exec_ghostsKept (h : exec i s = .next t) : GhostsKept s t := by
  rcases exec_errorKept h with rfl | herror
  · cases h; exact ghostsKept_clear s
  · obtain ⟨hfault, hfaultSeen⟩ := herror.remembers
    obtain ⟨hcause, haborted, habortSeen⟩ := (exec_abortKept h).remembers
    obtain ⟨hoverrun, hdiscardSeen⟩ := exec_discards h
    unfold GhostsKept ghostsInv
    rw [hoverrun, hdiscardSeen]
    exact ⟨fun ⟨hf, hc, ha, hd⟩ => ⟨hfault hf, hcause hc, haborted ha, hd⟩, hfaultSeen, habortSeen, id⟩

/-- From a fixed state, what holds of the flags is kept by every part of a step. -/
theorem stepInvariant_ghostsKept (s₀ : State) : StepInvariant (GhostsKept s₀) where
  taken _ _ _ h := h
  write slot w h := h.trans (ghostsKept_busWrite slot w _)
  poke _ _ h := h
  discard h := h.trans (ghostsKept_discard _)
  exec hexec h := h.trans (exec_ghostsKept hexec)

/-- Settles O9: every part of a step that sets ERR_CODE, ABORT_CAUSE, SCAN_ABORTED or OVERRUN sets its flag, and none
clears a flag. -/
theorem ghostFlagsRememberFaultsAborts : Obligations.GhostFlagsRememberFaultsAborts :=
  fun s _ h => step_keeps (stepInvariant_ghostsKept s) h (.refl s)

end Sys2Proof.Machine
